-- ==== Sys2Proof/Word.lean ====
section
/-! DEFINITION. The bit-vector types of KB64 (00_scope.md R9): a byte of a buffer or a ROM, the 32-bit word of a
register or of the data bus, the 18-bit offset of the host port. -/

namespace Sys2Proof

/-- A buffer or ROM entry, 8 bits (R9). -/
abbrev Byte := BitVec 8

/-- A register, a command word or the host data bus, 32 bits (R9). -/
abbrev Word := BitVec 32

/-- An offset into the block, 18 bits, byte granular (R9, R32). -/
abbrev Offset := BitVec 18

end Sys2Proof
end

