-- ==== Sys2Proof/Config.lean ====
section
/-! DEFINITION. What an implementation of KB64 fixes (00_scope.md R8) and the free values the spec leaves open. -/

namespace Sys2Proof.Config

/-- The implementation parameters of R8. They are held in State and changed by no step, so a statement over every
state holds for every value of them (log 5, log 6). -/
structure Params where
  /-- `IN_CAP`, the capacity of IN_BUF in bytes. -/
  inCap   : Nat
  /-- `SUBST_B1`, the integer used for the second symbol of a decode group when that symbol is not valid or lies
  past the end of the input. -/
  substB1 : Int
deriving DecidableEq, Repr

/-- The legal values of R8: `1 <= IN_CAP <= 49152`; `SUBST_B1` is any integer. -/
def Params.legal (p : Params) : Bool := decide (1 ≤ p.inCap) && decide (p.inCap ≤ 49152)

/-- `OUT_CAP = 4 * ceil(IN_CAP / 3)` (R8). -/
def Params.outCap (p : Params) : Nat := 4 * ((p.inCap + 2) / 3)

/-- The reference configuration of R8: `IN_CAP = 4096`, `SUBST_B1 = -1`. DESIGN CHOICE, unsafe for a claim about
`State.reset` alone: the spec leaves both parameters open (log 5, log 6). -/
def Params.reference : Params := { inCap := 4096, substB1 := -1 }

/-- The free value of a buffer byte that nothing has written since reset, at one step (first argument) and one block
offset (second argument): reading (b) of 41_command.md R76, "each such byte is a free draw in 0..255". No body: nothing
can be proved of its value (log 4). -/
opaque freeByte : Nat → Nat → Byte

end Sys2Proof.Config
end

