-- ==== Sys2Proof/Syntax.lean ====
section
/-! DEFINITION. The syntax of KB64: the six commands of 30_encoding.md R54, the command format CMD32 of R52, the
transaction record of R58, and the steps of the environment (00_scope.md R14). -/

namespace Sys2Proof

/-- The two alphabets of 40_tables.md R61 and R62; the selector `a in {STD, URL}` of R69. -/
inductive Alphabet where
  | std
  | url
deriving DecidableEq, Repr

/-- The six commands of R54, one constructor per row of the opcode table. A command has no operand field (R53). -/
inductive Instr where
  /-- ENC_STD: encode, standard alphabet (42_encode.md R85). -/
  | encStd
  /-- ENC_URL: encode, URL-safe alphabet (R86). -/
  | encUrl
  /-- DEC_STD: decode, standard alphabet, nothing stripped (43_decode.md R102). -/
  | decStd
  /-- DEC_URL: decode, URL-safe alphabet, nothing stripped (R103). -/
  | decUrl
  /-- DEC_STD_WS: strip whitespace, then decode, standard alphabet (R104). -/
  | decStdWs
  /-- DEC_URL_WS: strip whitespace, then decode, URL-safe alphabet (R105). -/
  | decUrlWs
deriving DecidableEq, Repr

/-- The fields of the command word CMD32 (R52): RSVD 31:3, IGNWS 2, URL 1, DIR 0. -/
structure CommandFields where
  rsvd  : BitVec 29
  ignws : Bool
  url   : Bool
  dir   : Bool
deriving DecidableEq, Repr

/-- The direction of a transaction (R58). -/
inductive Dir where
  | read
  | write
deriving DecidableEq, Repr

/-- The size of a transaction: 1, 2 or 4 bytes (R41, R58). -/
inductive Size where
  | one
  | two
  | four
deriving DecidableEq, Repr

/-- The number of bytes of a transaction. -/
def Size.bytes : Size → Nat
  | .one  => 1
  | .two  => 2
  | .four => 4

/-- A transaction record `{dir, size, off, data}` (R58); data is ignored for a read. -/
structure Transaction where
  dir  : Dir
  size : Size
  off  : Offset
  data : Word
deriving DecidableEq, Repr

/-- The step forms `RD8`, `RD16`, `RD32` of R58. -/
def Transaction.rd (size : Size) (off : Offset) : Transaction := ⟨.read, size, off, 0⟩

/-- The step forms `W8`, `W16`, `W32` of R58. -/
def Transaction.wr (size : Size) (off : Offset) (data : Word) : Transaction := ⟨.write, size, off, data⟩

/-- The three kinds of step (R14): a transaction of the host, a turn of the engine, the reset input. A list of
them in State says which agent moves next (log 1). -/
inductive Event where
  | transaction (t : Transaction)
  | engineTurn
  | resetInput
deriving DecidableEq, Repr

end Sys2Proof
end

