-- ==== Sys2Proof/WellFormed.lean ====
section
/-! DEFINITION. Which fields of a command word make a legal command (30_encoding.md R54, R55), and the fields of
each command. -/

namespace Sys2Proof

/-- RSVD must be zero (R52, R55). -/
def CommandFields.reservedZero (f : CommandFields) : Bool := f.rsvd == 0

/-- IGNWS is legal only with DIR = 1 (10_state.md R19, R55). -/
def CommandFields.stripsOnlyDecode (f : CommandFields) : Bool := !f.ignws || f.dir

/-- The two checks of R56: the fields are those of one of the six commands. -/
def CommandFields.wellFormed (f : CommandFields) : Bool := f.reservedZero && f.stripsOnlyDecode

/-- The fields of each command, row by row of the table of R54 (columns DIR, URL, IGNWS). -/
def Instr.fields : Instr → CommandFields
  | .encStd   => { rsvd := 0, ignws := false, url := false, dir := false }
  | .encUrl   => { rsvd := 0, ignws := false, url := true,  dir := false }
  | .decStd   => { rsvd := 0, ignws := false, url := false, dir := true }
  | .decUrl   => { rsvd := 0, ignws := false, url := true,  dir := true }
  | .decStdWs => { rsvd := 0, ignws := true,  url := false, dir := true }
  | .decUrlWs => { rsvd := 0, ignws := true,  url := true,  dir := true }

/-- An instruction is well formed when the fields of its word are. A command has no operand (R53), so nothing else
can be ill formed. -/
def Instr.wellFormed (i : Instr) : Bool := i.fields.wellFormed

end Sys2Proof
end

