-- ==== Sys2Proof/Decode.lean ====
section
/-! DEFINITION. The command-word decoder of 30_encoding.md R56, total on all words and all byte lists and rejecting by
name; then the encoder; then the byte order of a word (20_memory.md R40). -/

namespace Sys2Proof

/-- Why no command is read. -/
inductive DecodeReject where
  /-- RSVD is not zero (R55). -/
  | reservedBits
  /-- IGNWS = 1 with DIR = 0: encode has no whitespace pre-pass (R55). -/
  | encodeWithStrip
  /-- Fewer than four bytes: a command is one 32-bit word (R52, R57). -/
  | truncated
deriving DecidableEq, Repr

/-- What the decoder answers for a word. -/
inductive DecodeResult where
  | command (i : Instr)
  | reject (r : DecodeReject)
deriving DecidableEq, Repr

/-- What the decoder answers for a list of bytes: a command and the bytes after it, or a rejection. -/
inductive DecodeBytesResult where
  | command (i : Instr) (rest : List Byte)
  | reject (r : DecodeReject)
deriving DecidableEq, Repr

/-- The fields of a word (R52). -/
def fieldsOfWord (w : Word) : CommandFields :=
  { rsvd := w.extractLsb' 3 29, ignws := w.getLsbD 2, url := w.getLsbD 1, dir := w.getLsbD 0 }

/-- `DecodeCmd` of R56: the two checks in the spec's order, then the six arms by (dir, url, ignws). The two arms
for (0, _, 1) are the ones the second check has already refused. -/
def decodeFields (f : CommandFields) : DecodeResult :=
  if !f.reservedZero then .reject .reservedBits
  else
    match f.dir, f.url, f.ignws with
    | false, false, false => .command .encStd
    | false, true,  false => .command .encUrl
    | true,  false, false => .command .decStd
    | true,  true,  false => .command .decUrl
    | true,  false, true  => .command .decStdWs
    | true,  true,  true  => .command .decUrlWs
    | false, false, true  => .reject .encodeWithStrip
    | false, true,  true  => .reject .encodeWithStrip

/-- The decoder of command words, total on all 32-bit words (R56). -/
def decodeWord (w : Word) : DecodeResult := decodeFields (fieldsOfWord w)

/-- A little-endian value of the given bytes: the byte at offset k lies in bits 8k+7 to 8k (R40, R42). -/
def wordOfBytes : List Byte → Word
  | [] => 0
  | b :: bs => b.setWidth 32 ||| (wordOfBytes bs <<< 8)

/-- The bytes of a word from the lowest address, n of them (R40, R42). -/
def bytesOfWord (n : Nat) (w : Word) : List Byte := (List.range n).map fun k => w.extractLsb' (8 * k) 8

/-- The decoder on bytes as the host port stores them: one little-endian 32-bit word (R40, R52; DEDUCED, log 10). -/
def decodeBytes : List Byte → DecodeBytesResult
  | b0 :: b1 :: b2 :: b3 :: rest =>
    match decodeWord (wordOfBytes [b0, b1, b2, b3]) with
    | .command i => .command i rest
    | .reject r => .reject r
  | _ => .reject .truncated

/-- The word of given fields (R52): RSVD in bits 31:3, IGNWS in bit 2, URL in bit 1, DIR in bit 0. -/
def wordOfFields (f : CommandFields) : Word :=
  (f.rsvd.setWidth 32 <<< 3) ||| ((BitVec.ofBool f.ignws).setWidth 32 <<< 2) |||
    ((BitVec.ofBool f.url).setWidth 32 <<< 1) ||| (BitVec.ofBool f.dir).setWidth 32

/-- The command word of each command, the column "word" of R54, from its fields. -/
def encode (i : Instr) : Word := wordOfFields i.fields

/-- The bytes of a command word from the lowest address (R40). -/
def encodeBytes (i : Instr) : List Byte := bytesOfWord 4 (encode i)

/-- Bits 2:0 of the command word, (IGNWS, URL, DIR): what LATCH_OP holds (41_command.md R72, R75). -/
def opcode (i : Instr) : BitVec 3 := (encode i).extractLsb' 0 3

/-- The instruction the decoder reads from the opcode table's bits w, of which the table gives nbits: the bits above
are zero, the word's bytes are laid out little-endian, and the decoder reads them. -/
def decodeTableWord (nbits w : Nat) : Option Instr :=
  match decodeBytes (bytesOfWord 4 (BitVec.ofNat 32 (w % 2 ^ nbits))) with
  | .command i _ => some i
  | .reject _ => none

end Sys2Proof
end

