-- ==== Sys2Proof/Machine/State.lean ====
section
/-! DEFINITION. The state of KB64 as 10_state.md R31 lists it, the parameters, and the model's own three fields
(the response, the schedule, the draw counter); the reasons a step can stop; reset. -/

namespace Sys2Proof.Machine

/-- The two buffers' written bytes, by block offset (20_memory.md R37, R38): IN_BUF[i] at 0x10000 + i, OUT_BUF[i] at
0x20000 + i. Addresses strictly rising; a byte not listed is unspecified since reset (R26, R27, R128; log 12). -/
abbrev Memory := List Host.Cell

/-- The three bus responses (44_host_access.md R106). -/
inductive BusResponse where
  | okay
  | slverr
  | decerr
deriving DecidableEq, Repr

/-- The response of one transaction (R106): a read also returns data; a write returns none. -/
structure Response where
  kind : BusResponse
  data : Option Word
deriving DecidableEq, Repr

/-- The command errors (60_exceptions.md R115). -/
inductive CommandError where
  | illegalCmd
  | lenRange
deriving DecidableEq, Repr

/-- The seven registers (10_state.md R18). -/
inductive Register where
  | cmd
  | status
  | inLen
  | outLen
  | irqEn
  | irqPend
  | cap
deriving DecidableEq, Repr

/-- The mapped regions (20_memory.md R33). -/
inductive Region where
  | registers
  | alphaStd
  | alphaUrl
  | decStd
  | decUrl
  | inBuf
  | outBuf
deriving DecidableEq, Repr

/-- One row of the address map of R33. -/
structure Window where
  region : Region
  base   : Nat
  size   : Nat
deriving DecidableEq, Repr

/-- The state of KB64. -/
structure State where
  /-- The parameters IN_CAP and SUBST_B1 (00_scope.md R8); no step changes them. -/
  cfg      : Config.Params
  /-- CMD (R19). -/
  cmd      : Word
  /-- STATUS.BUSY, and the engine's state IDLE or BUSY (R20, R29). -/
  busy     : Bool
  /-- STATUS.DONE (R20). -/
  done     : Bool
  /-- STATUS.ERR (R20). -/
  err      : Bool
  /-- STATUS.CAUSE (R20). -/
  cause    : BitVec 4
  /-- IN_LEN.LEN (R21). -/
  inLen    : BitVec 17
  /-- OUT_LEN.COUNT (R22). -/
  outCount : BitVec 17
  /-- IRQ_EN.DONE_IE (R23). -/
  doneIE   : Bool
  /-- IRQ_EN.ERR_IE (R23). -/
  errIE    : Bool
  /-- IRQ_PEND.DONE_IP (R24). -/
  doneIP   : Bool
  /-- IRQ_PEND.ERR_IP (R24). -/
  errIP    : Bool
  /-- LATCH_OP (R29). -/
  latchOp  : BitVec 3
  /-- LATCH_LEN (R29). -/
  latchLen : BitVec 17
  /-- IN_BUF and OUT_BUF (R26, R27). -/
  mem      : Memory
  /-- The model's own: the response of the step just taken; none when it was no transaction (log 7). -/
  resp     : Option Response
  /-- The model's own: the steps the environment will take, oldest first (log 1). -/
  schedule : List Event
  /-- The model's own: the index of the next free draws, advanced by every step (log 4). -/
  draws    : Nat
deriving DecidableEq, Repr

/-- Why the machine stops. -/
inductive Fault where
  /-- Raised by the engine's step (`engineStep`) when the engine is BUSY and LATCH_OP is 0b100 or 0b110, which names no
  command: 41_command.md R75 says LATCH_OP never holds such a value. No state that meets `State.Inv` raises it.
  Safe: the model stops where the spec says nothing can be. -/
  | latchIllegal
deriving DecidableEq, Repr

/-- Why an instruction has no meaning. -/
inductive Refusal where
  /-- Raised by an arm of `exec` for an instruction that has no meaning yet. Safe. No arm of this model raises it. -/
  | notModelled (mnemonic : String)
deriving DecidableEq, Repr

/-- The state right after reset under given parameters: `Reset()` of 70_reset_and_hazards.md R128. Every register
field is 0, the engine is IDLE, every buffer byte is unspecified. -/
def State.resetWith (p : Config.Params) : State where
  cfg      := p
  cmd      := 0
  busy     := false
  done     := false
  err      := false
  cause    := 0
  inLen    := 0
  outCount := 0
  doneIE   := false
  errIE    := false
  doneIP   := false
  errIP    := false
  latchOp  := 0
  latchLen := 0
  mem      := []
  resp     := none
  schedule := []
  draws    := 0

/-- The machine right after reset, in the reference configuration (R8, R128; DESIGN CHOICE, log 5 and log 6). -/
def State.reset : State := State.resetWith Config.Params.reference

end Sys2Proof.Machine
end

