-- ==== Sys2Proof/Machine/Flags.lean ====
section
/-! DEFINITION. STATUS, the interrupt bits and the IRQ line: how the flags are read as words (44_host_access.md R109) and
every way the rules write them (41_command.md R71 to R74, 44_host_access.md R110). -/

namespace Sys2Proof.Machine

/-- A flag at bit k of a register. -/
def flagAt (b : Bool) (k : Nat) : Word := if b then 1 <<< k else 0

/-- STATUS as read: `BUSY | DONE << 1 | ERR << 2 | CAUSE << 8` (R109). -/
def statusWord (s : State) : Word :=
  flagAt s.busy 0 ||| flagAt s.done 1 ||| flagAt s.err 2 ||| (s.cause.setWidth 32 <<< 8)

/-- IRQ_EN as read: `DONE_IE | ERR_IE << 1` (R109). -/
def irqEnWord (s : State) : Word := flagAt s.doneIE 0 ||| flagAt s.errIE 1

/-- IRQ_PEND as read: `DONE_IP | ERR_IP << 1` (R109). -/
def irqPendWord (s : State) : Word := flagAt s.doneIP 0 ||| flagAt s.errIP 1

/-- The interrupt output, active high and level-sensitive (60_exceptions.md R118). -/
def irqLine (s : State) : Bool := (s.doneIP && s.doneIE) || (s.errIP && s.errIE)

/-- The cause codes of 60_exceptions.md R115. -/
def causeCode : CommandError → BitVec 4
  | .illegalCmd => 1
  | .lenRange   => 2

/-- The flags cleared by every accept: DONE, ERR, CAUSE (R71). -/
def clearOutcome (s : State) : State := { s with done := false, err := false, cause := 0 }

/-- The flags of a command error: ERR, CAUSE and ERR_IP; BUSY stays (R73). -/
def flagsOnError (c : CommandError) (s : State) : State :=
  { s with err := true, cause := causeCode c, errIP := true }

/-- The flags of a completion: BUSY falls, DONE and DONE_IP rise (R74). -/
def flagsOnCompletion (s : State) : State := { s with busy := false, done := true, doneIP := true }

/-- A write of v to IRQ_EN: bits 0 and 1 are stored, the rest dropped (R110, 10_state.md R23). -/
def writeIrqEn (v : Word) (s : State) : State := { s with doneIE := v.getLsbD 0, errIE := v.getLsbD 1 }

/-- A write of v to IRQ_PEND, the block's only "return from interrupt" (60_exceptions.md R120): a pending bit is
cleared where v holds 1 and left where v holds 0 (R110, 10_state.md R24). -/
def acknowledge (v : Word) (s : State) : State :=
  { s with doneIP := s.doneIP && !v.getLsbD 0, errIP := s.errIP && !v.getLsbD 1 }

end Sys2Proof.Machine
end

