-- ==== Sys2Proof/Machine/Tables.lean ====
section
/-! DEFINITION. The four lookup ROMs of 40_tables.md, bit for bit, and the two lookup primitives of R69. -/

namespace Sys2Proof.Machine

/-- Entries 0 to 61 of both alphabet ROMs: `A` to `Z`, `a` to `z`, `0` to `9` (R61, R62). -/
def alphaCommon : List Byte :=
  [0x41, 0x42, 0x43, 0x44, 0x45, 0x46, 0x47, 0x48] ++
  [0x49, 0x4A, 0x4B, 0x4C, 0x4D, 0x4E, 0x4F, 0x50] ++
  [0x51, 0x52, 0x53, 0x54, 0x55, 0x56, 0x57, 0x58] ++
  [0x59, 0x5A, 0x61, 0x62, 0x63, 0x64, 0x65, 0x66] ++
  [0x67, 0x68, 0x69, 0x6A, 0x6B, 0x6C, 0x6D, 0x6E] ++
  [0x6F, 0x70, 0x71, 0x72, 0x73, 0x74, 0x75, 0x76] ++
  [0x77, 0x78, 0x79, 0x7A, 0x30, 0x31, 0x32, 0x33] ++
  [0x34, 0x35, 0x36, 0x37, 0x38, 0x39]

/-- The padding symbol `=`, entry 64 of both alphabet ROMs (R63). -/
def paddingByte : Byte := 0x3D

/-- ALPHA_STD and ALPHA_URL, 65 entries each: entries 62 and 63 are `+` `/` (R61) or `-` `_` (R62), entry 64 is the
padding symbol (R63). -/
def alphaRom : Alphabet → List Byte
  | .std => alphaCommon ++ [0x2B, 0x2F, paddingByte]
  | .url => alphaCommon ++ [0x2D, 0x5F, paddingByte]

/-- A row of 16 invalid entries of a decode table (R66, R67). -/
def invalidRow : List Byte := List.replicate 16 0xFF

/-- DEC_STD, 256 entries, row by row (R66). -/
def decStdRom : List Byte :=
  invalidRow ++ invalidRow ++
  [0xFF, 0xFF, 0xFF, 0xFF, 0xFF, 0xFF, 0xFF, 0xFF, 0xFF, 0xFF, 0xFF, 0x3E, 0xFF, 0xFF, 0xFF, 0x3F] ++
  [0x34, 0x35, 0x36, 0x37, 0x38, 0x39, 0x3A, 0x3B, 0x3C, 0x3D, 0xFF, 0xFF, 0xFF, 0xFF, 0xFF, 0xFF] ++
  [0xFF, 0x00, 0x01, 0x02, 0x03, 0x04, 0x05, 0x06, 0x07, 0x08, 0x09, 0x0A, 0x0B, 0x0C, 0x0D, 0x0E] ++
  [0x0F, 0x10, 0x11, 0x12, 0x13, 0x14, 0x15, 0x16, 0x17, 0x18, 0x19, 0xFF, 0xFF, 0xFF, 0xFF, 0xFF] ++
  [0xFF, 0x1A, 0x1B, 0x1C, 0x1D, 0x1E, 0x1F, 0x20, 0x21, 0x22, 0x23, 0x24, 0x25, 0x26, 0x27, 0x28] ++
  [0x29, 0x2A, 0x2B, 0x2C, 0x2D, 0x2E, 0x2F, 0x30, 0x31, 0x32, 0x33, 0xFF, 0xFF, 0xFF, 0xFF, 0xFF] ++
  invalidRow ++ invalidRow ++ invalidRow ++ invalidRow ++ invalidRow ++ invalidRow ++ invalidRow ++ invalidRow

/-- DEC_URL, 256 entries, row by row (R67). -/
def decUrlRom : List Byte :=
  invalidRow ++ invalidRow ++
  [0xFF, 0xFF, 0xFF, 0xFF, 0xFF, 0xFF, 0xFF, 0xFF, 0xFF, 0xFF, 0xFF, 0xFF, 0xFF, 0x3E, 0xFF, 0xFF] ++
  [0x34, 0x35, 0x36, 0x37, 0x38, 0x39, 0x3A, 0x3B, 0x3C, 0x3D, 0xFF, 0xFF, 0xFF, 0xFF, 0xFF, 0xFF] ++
  [0xFF, 0x00, 0x01, 0x02, 0x03, 0x04, 0x05, 0x06, 0x07, 0x08, 0x09, 0x0A, 0x0B, 0x0C, 0x0D, 0x0E] ++
  [0x0F, 0x10, 0x11, 0x12, 0x13, 0x14, 0x15, 0x16, 0x17, 0x18, 0x19, 0xFF, 0xFF, 0xFF, 0xFF, 0x3F] ++
  [0xFF, 0x1A, 0x1B, 0x1C, 0x1D, 0x1E, 0x1F, 0x20, 0x21, 0x22, 0x23, 0x24, 0x25, 0x26, 0x27, 0x28] ++
  [0x29, 0x2A, 0x2B, 0x2C, 0x2D, 0x2E, 0x2F, 0x30, 0x31, 0x32, 0x33, 0xFF, 0xFF, 0xFF, 0xFF, 0xFF] ++
  invalidRow ++ invalidRow ++ invalidRow ++ invalidRow ++ invalidRow ++ invalidRow ++ invalidRow ++ invalidRow

/-- The decode table of an alphabet (R65). -/
def decRom : Alphabet → List Byte
  | .std => decStdRom
  | .url => decUrlRom

/-- ROM entry i. Every index the block forms lies inside the ROM (R69), so the default is never read. -/
def romEntry (rom : List Byte) (i : Nat) : Byte := rom.getD i 0

/-- `EncSym(a, v)`, v in 0..64 (R69). -/
def encSym (a : Alphabet) (v : Nat) : Byte := romEntry (alphaRom a) v

/-- `DecVal(a, c) = sext_8(DEC_a[c])`, in {-1} and 0..63 (R69, R64). -/
def decVal (a : Alphabet) (c : Byte) : Int := (romEntry (decRom a) c.toNat).toInt

/-- The byte at window offset i of an alphabet window of 128 bytes: the ROM entry for i up to 64, then 0x00
(20_memory.md R35). -/
def alphaWindowByte (a : Alphabet) (i : Nat) : Byte := if i ≤ 64 then romEntry (alphaRom a) i else 0

/-- The byte at window offset i of a decode-table window of 256 bytes (20_memory.md R36). -/
def decWindowByte (a : Alphabet) (i : Nat) : Byte := romEntry (decRom a) i

end Sys2Proof.Machine
end

