-- ==== Sys2Proof/Machine/Ops.lean ====
section
/-! DEFINITION. The shared operations over memory and registers: the buffers' memory, the address map and the bytes of
every region (20_memory.md), the bus checks (44_host_access.md R107, R108), the command error (41_command.md R73) and the
accept (R71). -/

namespace Sys2Proof.Machine

/-! ### The buffers' memory -/

/-- The byte listed at an address; none when nothing has been written there since reset (10_state.md R26, R27). -/
def Memory.read : Memory → Nat → Option Byte
  | [], _ => none
  | (k, b) :: m, a => if k = a then some b else Memory.read m a

/-- Consecutive bytes as cells from an address on. -/
def cellsFrom : Nat → List Byte → Memory
  | _, [] => []
  | a, b :: bs => (a, b) :: cellsFrom (a + 1) bs

/-- The memory after consecutive bytes are stored from an address on; every other byte stays (20_memory.md R42). -/
def Memory.store (m : Memory) (a : Nat) (bs : List Byte) : Memory :=
  m.filter (fun c => decide (c.1 < a)) ++ cellsFrom a bs ++ m.filter (fun c => decide (a + bs.length ≤ c.1))

/-- The canonical form: addresses strictly rising. An unlisted byte is unspecified, which no listed byte equals, so no
entry repeats what an unlisted address reads as. -/
abbrev Memory.wf (m : Memory) : Prop := m.Pairwise (fun c d => c.1 < d.1)

/-- The byte of a buffer at a block offset. A byte not written since reset is unspecified: the free value of this step
and this offset (41_command.md R76 reading (b), 92_eei_decisions.md D27; log 4). -/
def bufferByte (s : State) (a : Nat) : Byte := (s.mem.read a).getD (Config.freeByte s.draws a)

/-! ### The address map -/

/-- The offset of IN_BUF[0] (20_memory.md R33, R37). -/
def inBufBase : Nat := 0x10000

/-- The offset of OUT_BUF[0] (20_memory.md R33, R38). -/
def outBufBase : Nat := 0x20000

/-- The mapped rows of the address map (20_memory.md R33). -/
def addressMap (p : Config.Params) : List Window :=
  [ { region := .registers, base := 0x00000, size := 0x1C },
    { region := .alphaStd,  base := 0x00100, size := 0x80 },
    { region := .alphaUrl,  base := 0x00180, size := 0x80 },
    { region := .decStd,    base := 0x00200, size := 0x100 },
    { region := .decUrl,    base := 0x00300, size := 0x100 },
    { region := .inBuf,     base := inBufBase,  size := p.inCap },
    { region := .outBuf,    base := outBufBase, size := p.outCap } ]

/-- All bytes a .. a+n-1 lie inside the window. -/
def Window.holds (w : Window) (a n : Nat) : Bool := decide (w.base ≤ a) && decide (a + n ≤ w.base + w.size)

/-- The region in which all bytes of a transaction lie; none when it is unmapped (R33, `Mapped` of R107). -/
def regionOf (p : Config.Params) (a n : Nat) : Option Region :=
  ((addressMap p).find? (fun w => w.holds a n)).map Window.region

/-- The register whose word holds the byte at an offset of the register region (R34, 10_state.md R18). -/
def registerAt (o : Nat) : Register :=
  if o < 0x04 then .cmd
  else if o < 0x08 then .status
  else if o < 0x0C then .inLen
  else if o < 0x10 then .outLen
  else if o < 0x14 then .irqEn
  else if o < 0x18 then .irqPend
  else .cap

/-- The value of each register as read (R109, 10_state.md R19 to R25). -/
def regWord (s : State) : Register → Word
  | .cmd     => s.cmd
  | .status  => statusWord s
  | .inLen   => s.inLen.setWidth 32
  | .outLen  => s.outCount.setWidth 32
  | .irqEn   => irqEnWord s
  | .irqPend => irqPendWord s
  | .cap     => (BitVec.ofNat 17 s.cfg.inCap).setWidth 32

/-- `byte(o)` of 20_memory.md R42 for an offset o of a region. -/
def byteAt (s : State) (r : Region) (o : Nat) : Byte :=
  match r with
  | .registers => (regWord s (registerAt o)).extractLsb' (8 * (o % 4)) 8
  | .alphaStd  => alphaWindowByte .std (o - 0x00100)
  | .alphaUrl  => alphaWindowByte .url (o - 0x00180)
  | .decStd    => decWindowByte .std (o - 0x00200)
  | .decUrl    => decWindowByte .url (o - 0x00300)
  | .inBuf     => bufferByte s o
  | .outBuf    => bufferByte s o

/-- `MemRead(a, n)`: the little-endian value of n bytes (R42). -/
def memRead (s : State) (r : Region) (a n : Nat) : Word :=
  wordOfBytes ((List.range n).map fun k => byteAt s r (a + k))

/-- `MemWrite(a, n, v)` on a buffer: n bytes, little-endian (R42). -/
def memWrite (a n : Nat) (v : Word) (s : State) : State := { s with mem := s.mem.store a (bytesOfWord n v) }

/-! ### The checks of a transaction -/

/-- `SizeAligned(a, n)` (R107, R41): registers by aligned words only, elsewhere natural alignment. -/
def sizeAligned (r : Region) (a n : Nat) : Bool :=
  match r with
  | .registers => decide (n = 4) && decide (a % 4 = 0)
  | .alphaStd | .alphaUrl | .decStd | .decUrl | .inBuf | .outBuf => decide (a % n = 0)

/-- The transactions refused while BUSY (R108): writes to CMD, IN_LEN and IN_BUF, reads of OUT_BUF. -/
def touchesCommand (d : Dir) (r : Region) (a : Nat) : Bool :=
  match d, r with
  | .write, .registers => registerAt a == .cmd || registerAt a == .inLen
  | .write, .inBuf => true
  | .read, .outBuf => true
  | .write, .alphaStd | .write, .alphaUrl | .write, .decStd | .write, .decUrl | .write, .outBuf => false
  | .read, .registers | .read, .alphaStd | .read, .alphaUrl | .read, .decStd | .read, .decUrl | .read, .inBuf => false

/-- `Interlocked(dir, a)` (R108): never while STATUS.BUSY = 0. -/
def interlocked (s : State) (d : Dir) (r : Region) (a : Nat) : Bool := s.busy && touchesCommand d r a

/-- What the checks of a transaction answer: the region it may act on, or the bus error that refuses it. -/
inductive CheckResult where
  | pass (r : Region)
  | busError (k : BusResponse)
deriving DecidableEq, Repr

/-- `Check(dir, a, n)`: mapped, then size and alignment, then the interlock; the first failure decides (R107, R116). -/
def busCheck (s : State) (d : Dir) (a n : Nat) : CheckResult :=
  match regionOf s.cfg a n with
  | none => .busError .decerr
  | some r =>
    if !sizeAligned r a n then .busError .slverr
    else if interlocked s d r a then .busError .slverr
    else .pass r

/-- `raise BusError(kind)` (60_exceptions.md R114): the response, read data 0, and no other change. -/
def raiseBusError (d : Dir) (k : BusResponse) (s : State) : State :=
  match d with
  | .read  => { s with resp := some { kind := k, data := some 0 } }
  | .write => { s with resp := some { kind := k, data := none } }

/-- The read of `BusRead` after its checks: OKAY and the data (R109). -/
def answerRead (r : Region) (a n : Nat) (s : State) : State :=
  { s with resp := some { kind := .okay, data := some (memRead s r a n) } }

/-- The OKAY of a write (R110). -/
def answerWrite (s : State) : State := { s with resp := some { kind := .okay, data := none } }

/-! ### Accept and command error -/

/-- The stores of `OnCmdWrite(w)` before its check: CMD takes the whole word, DONE, ERR and CAUSE are cleared (R71). -/
def acceptCommand (w : Word) (s : State) : State := clearOutcome { s with cmd := w }

/-- `CmdError(cause)`, the one operation that takes the block's command exceptions: ERR, CAUSE and ERR_IP are set, COUNT
is cleared, nothing else changes (R73). -/
def raiseCommandError (c : CommandError) (s : State) : State := flagsOnError c { s with outCount := 0 }

/-- A write of v to IN_LEN: bits 16:0 are stored, the rest dropped (R110, 10_state.md R21). -/
def writeInLen (v : Word) (s : State) : State := { s with inLen := v.setWidth 17 }

end Sys2Proof.Machine
end

