-- ==== Sys2Proof/Machine/Operands.lean ====
section
/-! DEFINITION. The operands and the result of a command (30_encoding.md R53): the input IN_BUF[0 .. LATCH_LEN), the output
OUT_BUF[0 .. COUNT); and the two steps of a command's life that use them, start (41_command.md R72) and completion (R74). -/

namespace Sys2Proof.Machine

/-- `S = IN_BUF[0 .. LATCH_LEN)`, read at the completion step (R74). -/
def operand (s : State) : List Byte := (List.range s.latchLen.toNat).map fun i => bufferByte s (inBufBase + i)

/-- The result of a command: OUT_BUF[k] <- R[k] for k < |R|, COUNT <- |R| (R74). -/
def writeResult (r : List Byte) (s : State) : State :=
  { s with mem := s.mem.store outBufBase r, outCount := BitVec.ofNat 17 r.length }

/-- `Complete()` with the result R of the command (R74). -/
def completeCommand (r : List Byte) (s : State) : State := flagsOnCompletion (writeResult r s)

/-- The rest of `CheckAndStart` for a legal command whose opcode bits are op: the length check, the two latches, BUSY
(R72). -/
def startCommand (op : BitVec 3) (s : State) : State :=
  if s.cfg.inCap < s.inLen.toNat then raiseCommandError .lenRange s
  else { s with latchOp := op, latchLen := s.inLen, busy := true }

/-- The life of a command with opcode bits op and result function f (41_command.md): an idle engine checks and starts it
(R72), a busy engine completes it (R74). DESIGN CHOICE, log 8: `exec` is one function for both steps. -/
def runCommand (op : BitVec 3) (f : List Byte → List Byte) (s : State) : Host.Outcome State Fault Refusal :=
  .next (if s.busy then completeCommand (f (operand s)) s else startCommand op s)

end Sys2Proof.Machine
end

