-- ==== Sys2Proof/Machine/DecodeText.lean ====
section
/-! DEFINITION. The decode function of 43_decode.md R89, the whitespace pre-pass of R100, and the four decode commands
(R102 to R105). -/

namespace Sys2Proof.Machine

/-- `Valid(e)`: 0 <= e <= 63 (R87, 90_conflicts.md C3); an absent position is not valid (R88). -/
def validSym : Option Int → Bool
  | some e => decide (0 ≤ e) && decide (e ≤ 63)
  | none => false

/-- `e_k` of R89: the decode-table value of a present position, or ABSENT, for which no lookup is made (R88). -/
def lookupSym (a : Alphabet) : Option Byte → Option Int
  | some c => some (decVal a c)
  | none => none

/-- `a << k` is `a * 2^k` on unbounded integers (00_scope.md R11). -/
def shlInt (v : Int) (k : Nat) : Int := v * 2 ^ k

/-- `a >> k` is the arithmetic right shift `floor(a / 2^k)` on unbounded integers (R11, 92_eei_decisions.md D17). -/
def shrInt (v : Int) (k : Nat) : Int := v / 2 ^ k

/-- `low8(v)`: the low 8 bits of the two's-complement representation (R11). -/
def low8 (v : Int) : Byte := BitVec.ofInt 8 v

/-- `low8(u | v)`, computed as the OR of the two low bytes, which is the same byte: bit k of an OR depends on bit k
alone (R11, 43_decode.md R95; DEDUCED, log 11). -/
def low8Or (u v : Int) : Byte := low8 u ||| low8 v

/-- `b1` of R89: e_1 when it is valid, else SUBST_B1 (R92). -/
def secondSym (subst : Int) : Option Int → Int
  | some e => if validSym (some e) then e else subst
  | none => subst

/-- Byte 0 = `low8((b0 << 2) | (b1 >> 4))` (R92). -/
def groupByte0 (b0 b1 : Int) : Byte := low8Or (shlInt b0 2) (shrInt b1 4)

/-- Byte 1 = `low8((b1 << 4) | (e_2 >> 2))` (R93). -/
def groupByte1 (b1 e2 : Int) : Byte := low8Or (shlInt b1 4) (shrInt e2 2)

/-- Byte 2 = `low8((e_2 << 6) | e_3)` (R94). -/
def groupByte2 (e2 e3 : Int) : Byte := low8Or (shlInt e2 6) e3

/-- The bytes of a group after Byte 0: none unless e_2 is valid, Byte 1 alone unless e_3 is valid too (R93, R94). -/
def groupTail (b1 : Int) (e2 e3 : Option Int) : List Byte :=
  match e2, e3 with
  | some v2, some v3 =>
    if validSym (some v2) then
      if validSym (some v3) then [groupByte1 b1 v2, groupByte2 v2 v3] else [groupByte1 b1 v2]
    else []
  | some v2, none => if validSym (some v2) then [groupByte1 b1 v2] else []
  | none, _ => []

/-- The output of the group that starts at byte c0, with the bytes at its positions 1 to 3 or none where the
position lies past the end of the input (R89, R91). -/
def decodeGroup (a : Alphabet) (subst : Int) (c0 : Byte) (p1 p2 p3 : Option Byte) : List Byte :=
  let b1 := secondSym subst (lookupSym a p1)
  groupByte0 (decVal a c0) b1 :: groupTail b1 (lookupSym a p2) (lookupSym a p3)

/-- `Decode(a, S)` (R89): a byte with no valid value is skipped (R90); at a valid one a group of four positions is
consumed, whatever its values (R91). -/
def base64Decode (a : Alphabet) (subst : Int) : List Byte → List Byte
  | [] => []
  | c0 :: rest =>
    if validSym (lookupSym a (some c0)) then
      match rest with
      | c1 :: c2 :: c3 :: more => decodeGroup a subst c0 (some c1) (some c2) (some c3) ++ base64Decode a subst more
      | [c1, c2] => decodeGroup a subst c0 (some c1) (some c2) none
      | [c1] => decodeGroup a subst c0 (some c1) none none
      | [] => decodeGroup a subst c0 none none none
    else base64Decode a subst rest

/-- The bytes the pre-pass removes: space, `\n`, `\r` (R100). -/
def isStripped (b : Byte) : Bool := b == 0x20 || b == 0x0A || b == 0x0D

/-- `Strip(S)` (R100). It works on a copy: no command writes IN_BUF. -/
def stripWhitespace (l : List Byte) : List Byte := l.filter fun b => !isStripped b

/-- DEC_STD (R102). -/
def execDecStd (s : State) : Host.Outcome State Fault Refusal :=
  runCommand (opcode .decStd) (base64Decode .std s.cfg.substB1) s

/-- DEC_URL (R103). -/
def execDecUrl (s : State) : Host.Outcome State Fault Refusal :=
  runCommand (opcode .decUrl) (base64Decode .url s.cfg.substB1) s

/-- DEC_STD_WS (R104). -/
def execDecStdWs (s : State) : Host.Outcome State Fault Refusal :=
  runCommand (opcode .decStdWs) (fun l => base64Decode .std s.cfg.substB1 (stripWhitespace l)) s

/-- DEC_URL_WS (R105). -/
def execDecUrlWs (s : State) : Host.Outcome State Fault Refusal :=
  runCommand (opcode .decUrlWs) (fun l => base64Decode .url s.cfg.substB1 (stripWhitespace l)) s

end Sys2Proof.Machine
end

