-- ==== Sys2Proof/Machine/Encode.lean ====
section
/-! DEFINITION. The encode function of 42_encode.md R78 and the two encode commands (R85, R86). -/

namespace Sys2Proof.Machine

/-- The field `v[hi:lo]` of a number, as an unsigned number (00_scope.md R10). -/
def field (v hi lo : Nat) : Nat := (v >>> lo) % 2 ^ (hi - lo + 1)

/-- The four symbols of a full 3-byte group, from its 24-bit big-endian integer (R78). -/
def encodeGroup (a : Alphabet) (x y z : Byte) : List Byte :=
  let w := (x.toNat <<< 16) ||| (y.toNat <<< 8) ||| z.toNat
  [encSym a (field w 23 18), encSym a (field w 17 12), encSym a (field w 11 6), encSym a (field w 5 0)]

/-- The four symbols of one trailing byte: the concrete steps of R79, no complement taken (90_conflicts.md C1). -/
def encodeTail1 (a : Alphabet) (x : Byte) : List Byte :=
  [encSym a (field x.toNat 7 2), encSym a ((x.toNat <<< 4) &&& 0x3F), encSym a 64, encSym a 64]

/-- The four symbols of two trailing bytes (R80). -/
def encodeTail2 (a : Alphabet) (y0 y1 : Byte) : List Byte :=
  let w := (y0.toNat <<< 8) ||| y1.toNat
  [encSym a (field w 15 10), encSym a (field w 9 4), encSym a ((w <<< 2) &&& 0x3F), encSym a 64]

/-- `Encode(a, P)` (R78): the full groups in order, then the trailing one or two bytes. -/
def base64Encode (a : Alphabet) : List Byte → List Byte
  | x :: y :: z :: rest => encodeGroup a x y z ++ base64Encode a rest
  | [y0, y1] => encodeTail2 a y0 y1
  | [x] => encodeTail1 a x
  | [] => []

/-- ENC_STD (R85). -/
def execEncStd (s : State) : Host.Outcome State Fault Refusal :=
  runCommand (opcode .encStd) (base64Encode .std) s

/-- ENC_URL (R86). -/
def execEncUrl (s : State) : Host.Outcome State Fault Refusal :=
  runCommand (opcode .encUrl) (base64Encode .url) s

end Sys2Proof.Machine
end

