-- ==== Sys2Proof/Machine/Dispatch.lean ====
section
/-! DEFINITION. The dispatch of 41_command.md R75: one arm per command. -/

namespace Sys2Proof.Machine

-- One arm per row of the opcode table (30_encoding.md R54).
def exec (i : Instr) (s : State) : Host.Outcome State Fault Refusal :=
  match i with
  | .encStd => Sys2Proof.Machine.execEncStd s
  | .encUrl => Sys2Proof.Machine.execEncUrl s
  | .decStd => Sys2Proof.Machine.execDecStd s
  | .decUrl => Sys2Proof.Machine.execDecUrl s
  | .decStdWs => Sys2Proof.Machine.execDecStdWs s
  | .decUrlWs => Sys2Proof.Machine.execDecUrlWs s

end Sys2Proof.Machine
end

