-- ==== Sys2Proof/Machine/Bus.lean ====
section
/-! DEFINITION. The host's step: one bus transaction (44_host_access.md R106 to R110), and the issue of a command by a
write to CMD (41_command.md R71, R72). -/

namespace Sys2Proof.Machine

/-- `OnCmdWrite(w)` on an idle engine (R71, R72): accept, then the check: an illegal word raises ILLEGAL_CMD, a legal
one runs its command's first step. -/
def issueCommand (w : Word) (s : State) : Host.Outcome State Fault Refusal :=
  match decodeWord w with
  | .reject _ => .next (raiseCommandError .illegalCmd (acceptCommand w s))
  | .command i => exec i (acceptCommand w s)

/-- A write of v to a register (R110): CMD issues a command, STATUS, OUT_LEN and CAP ignore it. -/
def writeRegister (r : Register) (v : Word) (s : State) : Host.Outcome State Fault Refusal :=
  match r with
  | .cmd     => issueCommand v s
  | .inLen   => .next (writeInLen v s)
  | .irqEn   => .next (writeIrqEn v s)
  | .irqPend => .next (acknowledge v s)
  | .status  => .next s
  | .outLen  => .next s
  | .cap     => .next s

/-- The write of `BusWrite` after its checks, by region (R110): the ROM windows and OUT_BUF ignore it. -/
def writeRegion (r : Region) (a n : Nat) (v : Word) (s : State) : Host.Outcome State Fault Refusal :=
  match r with
  | .registers => writeRegister (registerAt a) v s
  | .inBuf     => .next (memWrite a n v s)
  | .alphaStd  => .next s
  | .alphaUrl  => .next s
  | .decStd    => .next s
  | .decUrl    => .next s
  | .outBuf    => .next s

/-- One transaction of the host: the checks, then `BusRead` (R109) or `BusWrite` (R110). The response goes into `resp`. -/
def transact (t : Transaction) (s : State) : Host.Outcome State Fault Refusal :=
  match busCheck s t.dir t.off.toNat t.size.bytes with
  | .busError k => .next (raiseBusError t.dir k s)
  | .pass r =>
    match t.dir with
    | .read  => .next (answerRead r t.off.toNat t.size.bytes s)
    | .write => writeRegion r t.off.toNat t.size.bytes t.data (answerWrite s)

end Sys2Proof.Machine
end

