-- ==== Sys2Proof/Machine/Agents.lean ====
section
/-! DEFINITION. The three kinds of step (00_scope.md R14): the host's transaction, the engine's completion
(41_command.md R74), the reset input (70_reset_and_hazards.md R128), and which of them is taken next. -/

namespace Sys2Proof.Machine

/-- The engine's step (R74, R75): on a BUSY engine the latched command completes; an idle engine has no step. LATCH_OP
never holds a value that names no command (R75); the model stops there (log 9). -/
def engineStep (s : State) : Host.Outcome State Fault Refusal :=
  if s.busy then
    match decodeWord (s.latchOp.setWidth 32) with
    | .command i => exec i s
    | .reject _ => .fault .latchIllegal
  else .next s

/-- `Reset()` (R128), at any time: every register field 0, the engine IDLE, every buffer byte unspecified. The
parameters are constants; the environment's schedule and the draw counter run on (log 1, log 4). -/
def resetStep (s : State) : State :=
  { State.resetWith s.cfg with schedule := s.schedule, draws := s.draws }

/-- One step of the named agent. -/
def takeEvent (e : Event) (s : State) : Host.Outcome State Fault Refusal :=
  match e with
  | .transaction t => transact t s
  | .engineTurn    => engineStep s
  | .resetInput    => .next (resetStep s)

/-- What every step does beside its agent's action: the schedule moves on, the response of the step before is gone
(log 7), and the draw counter advances, so that no two steps share a free value (log 4). -/
def beginStep (rest : List Event) (s : State) : State :=
  { s with schedule := rest, resp := none, draws := s.draws + 1 }

/-- The next step: the first scheduled event; with none left, a BUSY engine completes, which is its weak fairness (R77,
log 3); with none left and the engine idle, the run is over (R137) and nothing changes. -/
def nextStep (s : State) : Host.Outcome State Fault Refusal :=
  match s.schedule with
  | e :: rest => takeEvent e (beginStep rest s)
  | [] => if s.busy then engineStep (beginStep [] s) else .next s

/-- Places a command word as the next thing the machine runs: an aligned 4-byte write of w to CMD (30_encoding.md R52)
becomes the next step, and the engine is idle, since a CMD write is accepted only then (R71; log 2). -/
def placeCommand (w : Word) (s : State) : State :=
  { s with busy := false, schedule := .transaction (.wr .four 0x00000 w) :: s.schedule }

end Sys2Proof.Machine
end

