-- ==== Sys2Proof/Machine/Step.lean ====
section
/-! DEFINITION. The step of the machine, and the placing of an instruction where the next step runs it. -/

namespace Sys2Proof.Machine

/-- One step of KB64 (00_scope.md R14). -/
def step (s : State) : Host.Outcome State Fault Refusal := nextStep s

/-- s with the command word of the opcode table's bits w (nbits of them, the bits above zero) placed so that the very
next step issues it (log 2). -/
def State.withFetchWord (s : State) (nbits w : Nat) : State :=
  placeCommand (BitVec.ofNat 32 (w % 2 ^ nbits)) s

end Sys2Proof.Machine
end

