-- ==== Sys2Proof/Machine/Pseudo.lean ====
section
/-! DEFINITION. The pseudo-instructions of 30_encoding.md R59 as lists of transactions. They are shorthand for programs, not
hardware; WAIT is the host's own loop, of which this file holds one poll. -/

namespace Sys2Proof.Machine

/-- The byte writes of `LOAD s` from IN_BUF[i] on. -/
def loadBytes : Nat → List Byte → List Transaction
  | _, [] => []
  | i, b :: bs => .wr .one (BitVec.ofNat 18 (inBufBase + i)) (b.setWidth 32) :: loadBytes (i + 1) bs

/-- `LOAD s`: the byte writes in order, then the length into IN_LEN. -/
def pseudoLoad (bs : List Byte) : List Transaction :=
  loadBytes 0 bs ++ [.wr .four 0x00008 (BitVec.ofNat 32 bs.length)]

/-- The six command pseudo-instructions: `W32 0x00000, w`. -/
def pseudoCommand (i : Instr) : Transaction := .wr .four 0x00000 (encode i)

/-- One poll of `WAIT`: `RD32 0x00004`. -/
def pseudoPoll : Transaction := .rd .four 0x00004

/-- `FETCH n`: the byte reads of OUT_BUF in order. -/
def pseudoFetch (n : Nat) : List Transaction :=
  (List.range n).map fun i => .rd .one (BitVec.ofNat 18 (outBufBase + i))

/-- `ACK`: `W32 0x00014, 0x00000003`. -/
def pseudoAck : Transaction := .wr .four 0x00014 0x00000003

end Sys2Proof.Machine
end

