-- ==== Sys2Proof/Safety.lean ====
section
/-! DEFINITION. The terms claims use: the invariant of a state, a final state, a step that goes on, the result of a command
as the table of 41_command.md R75 gives it. -/

namespace Sys2Proof.Machine

/-- A listed byte belongs to one of the two buffers (20_memory.md R37, R38). -/
def inBuffers (p : Config.Params) (a : Nat) : Prop :=
  (inBufBase ≤ a ∧ a < inBufBase + p.inCap) ∨ (outBufBase ≤ a ∧ a < outBufBase + p.outCap)

/-- What holds of every state between steps. -/
structure State.Inv (s : State) : Prop where
  /-- IN_CAP is legal (00_scope.md R8). -/
  cfgLegal   : s.cfg.legal = true
  /-- At most one of BUSY, DONE, ERR is 1 (10_state.md R20). -/
  oneOutcome : (s.busy && s.done) = false ∧ (s.busy && s.err) = false ∧ (s.done && s.err) = false
  /-- CAUSE is nonzero exactly when ERR is 1 (R20). -/
  causeErr   : s.cause ≠ 0 ↔ s.err = true
  /-- CAUSE codes 3 to 15 are never written (60_exceptions.md R115). -/
  causeCode  : s.cause.toNat ≤ 2
  /-- While BUSY, CMD is a legal word (41_command.md R72). -/
  cmdLegal   : s.busy = true → ∃ i, s.cmd = encode i
  /-- While BUSY, LATCH_OP equals CMD[2:0] (10_state.md R29). -/
  latchOp    : s.busy = true → s.latchOp = s.cmd.extractLsb' 0 3
  /-- While BUSY, LATCH_LEN equals IN_LEN.LEN (R29). -/
  latchLen   : s.busy = true → s.latchLen = s.inLen
  /-- While BUSY, the operand fits IN_BUF (R72). -/
  lenFits    : s.busy = true → s.latchLen.toNat ≤ s.cfg.inCap
  /-- COUNT never exceeds OUT_CAP (10_state.md R22). -/
  countFits  : s.outCount.toNat ≤ s.cfg.outCap
  /-- The memory is in its canonical form. -/
  memWf      : s.mem.wf
  /-- Only bytes of the two buffers are listed. -/
  memPlaced  : ∀ c ∈ s.mem, inBuffers s.cfg c.1

/-- The end of a run: no transaction, turn or reset left, and BUSY = 0 (70_reset_and_hazards.md R137). -/
def State.final (s : State) : Prop := s.schedule = [] ∧ s.busy = false

/-- The machine goes on: its step is neither a fault nor a refusal. -/
def State.continues (s : State) : Prop := ∃ t, step s = .next t

/-- k steps of the machine, stopping at the first fault or refusal. -/
def run (k : Nat) (s : State) : Host.Outcome State Fault Refusal := Host.Core.run Sys2Proof.core k s

/-- `Result(op, S)`, the table of 41_command.md R75, at a value of SUBST_B1. -/
def commandResult (i : Instr) (subst : Int) (l : List Byte) : List Byte :=
  match i with
  | .encStd   => base64Encode .std l
  | .encUrl   => base64Encode .url l
  | .decStd   => base64Decode .std subst l
  | .decUrl   => base64Decode .url subst l
  | .decStdWs => base64Decode .std subst (stripWhitespace l)
  | .decUrlWs => base64Decode .url subst (stripWhitespace l)

end Sys2Proof.Machine
end

