-- ==== Sys2Proof/Certificates/Slice0/Obligations.lean ====
section
/-! DEFINITION. The statements for the provers. Every parameter value is covered: the parameters IN_CAP and SUBST_B1 are
fields of the state. No statement rests on a value of `Config.freeByte` or of the counter `draws`. Where a statement names
the next state of a step, the fields `schedule` (log 1), `draws` (log 4) and `resp` (log 7) are the model's own: which event
comes next, the counter of free values, and where the response of a transaction stands are the model's choice, no rule. -/

open Sys2Proof Sys2Proof.Machine

/-! ### Command words -/

/-- 30_encoding.md R54: the six words, and a word selects its command only if it equals the match value exactly. -/
def Obligations.CommandWordSelectsExactly : Prop :=
  (encode .encStd = 0x00000000 ∧ encode .encUrl = 0x00000002 ∧ encode .decStd = 0x00000001 ∧
    encode .decUrl = 0x00000003 ∧ encode .decStdWs = 0x00000005 ∧ encode .decUrlWs = 0x00000007) ∧
  ∀ (w : Word) (i : Instr), decodeWord w = .command i ↔ w = encode i

/-- R55, R56: the words 0x4 and 0x6 and every word with RSVD != 0 are rejected, each for its own reason. -/
def Obligations.IllegalWordsRejectedByName : Prop :=
  ∀ w : Word,
    (decodeWord w = .reject .reservedBits ↔ w.extractLsb' 3 29 ≠ 0) ∧
    (decodeWord w = .reject .encodeWithStrip ↔ w = 0x00000004 ∨ w = 0x00000006) ∧
    decodeWord w ≠ .reject .truncated

/-- R52, R56, 20_memory.md R40: on bytes, decode and encode agree in both directions, whatever follows the word. -/
def Obligations.CommandBytesRoundTrip : Prop :=
  ∀ (i : Instr) (bs rest : List Byte), decodeBytes bs = .command i rest ↔ bs = encodeBytes i ++ rest

/-- R54, R55: a few words written out from the spec's table, as bytes from the lowest address. -/
def Obligations.SampleWordsDecode : Prop :=
  decodeBytes [0x00, 0x00, 0x00, 0x00] = .command .encStd [] ∧
  decodeBytes [0x02, 0x00, 0x00, 0x00] = .command .encUrl [] ∧
  decodeBytes [0x05, 0x00, 0x00, 0x00] = .command .decStdWs [] ∧
  decodeTableWord 32 0x00000007 = some .decUrlWs ∧
  decodeBytes [0x06, 0x00, 0x00, 0x00] = .reject .encodeWithStrip ∧
  decodeBytes [0x01, 0x00, 0x00, 0x80] = .reject .reservedBits

/-! ### Lookup tables -/

/-- 40_tables.md R65: the 64 symbols of an alphabet are distinct, and its decode table is its reverse map. -/
def Obligations.DecodeTableReversesAlphabet : Prop :=
  ∀ a : Alphabet,
    (∀ i < 64, ∀ j < 64, encSym a i = encSym a j → i = j) ∧
    ∀ c : Byte,
      (∀ i < 64, encSym a i = c → romEntry (decRom a) c.toNat = BitVec.ofNat 8 i) ∧
      ((∀ i < 64, encSym a i ≠ c) → romEntry (decRom a) c.toNat = 0xFF)

/-- R70: decoding a symbol gives its value back, and the padding symbol decodes to -1. -/
def Obligations.SymbolValueRoundTrip : Prop :=
  ∀ a : Alphabet, (∀ v < 64, decVal a (encSym a v) = v) ∧ decVal a (encSym a 64) = -1

/-- R68: the two decode tables differ on exactly four bytes. -/
def Obligations.DecodeTablesDifferOnFourBytes : Prop :=
  (decVal .url 0x2B = -1 ∧ decVal .url 0x2F = -1 ∧ decVal .std 0x2D = -1 ∧ decVal .std 0x5F = -1) ∧
  (decVal .std 0x2B = 62 ∧ decVal .std 0x2F = 63 ∧ decVal .url 0x2D = 62 ∧ decVal .url 0x5F = 63) ∧
  ∀ c : Byte, c ≠ 0x2B → c ≠ 0x2F → c ≠ 0x2D → c ≠ 0x5F → decVal .std c = decVal .url c

/-! ### The encode function -/

/-- 42_encode.md R78, R79, R80, as arithmetic on the bytes of a group. -/
def Obligations.EncodeGroupArithmetic : Prop :=
  ∀ (a : Alphabet) (x y z : Byte) (rest : List Byte),
    base64Encode a (x :: y :: z :: rest) =
      [encSym a (x.toNat / 4), encSym a (x.toNat % 4 * 16 + y.toNat / 16),
        encSym a (y.toNat % 16 * 4 + z.toNat / 64), encSym a (z.toNat % 64)] ++ base64Encode a rest ∧
    base64Encode a [x, y] =
      [encSym a (x.toNat / 4), encSym a (x.toNat % 4 * 16 + y.toNat / 16), encSym a (y.toNat % 16 * 4), 0x3D] ∧
    base64Encode a [x] = [encSym a (x.toNat / 4), encSym a (x.toNat % 4 * 16), 0x3D, 0x3D] ∧
    base64Encode a [] = []

/-- R81: the length of the text, and no encode overflows OUT_BUF. -/
def Obligations.EncodedLength : Prop :=
  ∀ (a : Alphabet) (l : List Byte),
    (base64Encode a l).length = 4 * ((l.length + 2) / 3) ∧
    ∀ p : Config.Params, l.length ≤ p.inCap → (base64Encode a l).length ≤ p.outCap

/-- R82: the number of padding symbols, at the end only; every other byte is one of the 64 symbols. -/
def Obligations.EncodedPaddingShape : Prop :=
  ∀ (a : Alphabet) (l : List Byte),
    ∃ body : List Byte,
      base64Encode a l = body ++ List.replicate ((3 - l.length % 3) % 3) 0x3D ∧
      ∀ b ∈ body, b ≠ 0x3D ∧ ∃ v < 64, b = encSym a v

/-- R83: the two alphabets' texts differ only where the standard text holds `+` or `/`. -/
def Obligations.UrlTextSubstitutesTwoSymbols : Prop :=
  ∀ l : List Byte,
    base64Encode .url l =
      (base64Encode .std l).map fun b => if b = 0x2B then 0x2D else if b = 0x2F then 0x5F else b

/-- R78: full groups are encoded independently, so a text splits at every third payload byte. -/
def Obligations.EncodeSplitsAtGroups : Prop :=
  ∀ (a : Alphabet) (l m : List Byte), l.length % 3 = 0 →
    base64Encode a (l ++ m) = base64Encode a l ++ base64Encode a m

/-! ### The decode function -/

/-- 43_decode.md R90: bytes with no valid value before a group start emit nothing. -/
def Obligations.InvalidStartsAreSkipped : Prop :=
  ∀ (a : Alphabet) (subst : Int) (noise l : List Byte),
    (∀ c ∈ noise, ¬ (0 ≤ decVal a c ∧ decVal a c ≤ 63)) →
    base64Decode a subst (noise ++ l) = base64Decode a subst l

/-- R89, R91 to R95: the output of one group, written with the spec's formulas on unbounded integers (00_scope.md R11:
Int.lor is `|`, `v * 2 ^ k` is `v << k`, Int.fdiv v (2 ^ k) is the floor `v >> k`), for a full group and for the three
short ones. -/
def Obligations.GroupDecodesByFormula : Prop :=
  ∀ (a : Alphabet) (subst : Int) (c0 c1 c2 c3 : Byte) (more : List Byte),
    0 ≤ decVal a c0 → decVal a c0 ≤ 63 →
    let b1 : Int := if 0 ≤ decVal a c1 ∧ decVal a c1 ≤ 63 then decVal a c1 else subst
    let byte0 : Byte := BitVec.ofInt 8 (Int.lor (decVal a c0 * 2 ^ 2) (Int.fdiv b1 (2 ^ 4)))
    let byte1 : Byte := BitVec.ofInt 8 (Int.lor (b1 * 2 ^ 4) (Int.fdiv (decVal a c2) (2 ^ 2)))
    let byte2 : Byte := BitVec.ofInt 8 (Int.lor (decVal a c2 * 2 ^ 6) (decVal a c3))
    let last3 : List Byte := if 0 ≤ decVal a c3 ∧ decVal a c3 ≤ 63 then [byte2] else []
    (base64Decode a subst (c0 :: c1 :: c2 :: c3 :: more) =
      (byte0 :: if 0 ≤ decVal a c2 ∧ decVal a c2 ≤ 63 then byte1 :: last3 else []) ++ base64Decode a subst more) ∧
    (base64Decode a subst [c0, c1, c2] =
      byte0 :: if 0 ≤ decVal a c2 ∧ decVal a c2 ≤ 63 then [byte1] else []) ∧
    base64Decode a subst [c0, c1] = [byte0] ∧
    base64Decode a subst [c0] = [BitVec.ofInt 8 (Int.lor (decVal a c0 * 2 ^ 2) (Int.fdiv subst (2 ^ 4)))]

/-- R92, R93, R94: for valid values the three bytes are the bit fields of the four 6-bit values. -/
def Obligations.ValidGroupBytesAreBitFields : Prop :=
  ∀ e0 e1 e2 e3 : Nat, e0 < 64 → e1 < 64 → e2 < 64 → e3 < 64 →
    (groupByte0 e0 e1).toNat = e0 * 4 + e1 / 16 ∧
    (groupByte1 e1 e2).toNat = e1 % 16 * 16 + e2 / 4 ∧
    (groupByte2 e2 e3).toNat = e2 % 4 * 64 + e3

/-- R92, R93: what the open parameter SUBST_B1 does to Byte 0 and Byte 1 at the three values the spec works out; the
statement names the values it assumes. -/
def Obligations.SubstitutedSecondSymbol : Prop :=
  ∀ b0 e2 : Nat, b0 < 64 → e2 < 64 →
    groupByte0 b0 (-1) = 0xFF ∧ (groupByte1 (-1) e2).toNat = 0xF0 + e2 / 4 ∧
    (groupByte0 b0 0).toNat = b0 * 4 ∧ (groupByte1 0 e2).toNat = e2 / 4 ∧
    groupByte0 b0 64 = BitVec.ofNat 8 (b0 * 4) ||| 4 ∧ (groupByte1 64 e2).toNat = e2 / 4

/-- R97: the output is never longer than the input, and no decode overflows OUT_BUF. -/
def Obligations.DecodedLengthBound : Prop :=
  ∀ (a : Alphabet) (subst : Int) (l : List Byte),
    (base64Decode a subst l).length ≤ l.length ∧
    ∀ p : Config.Params, l.length ≤ p.inCap → (base64Decode a subst l).length ≤ p.outCap

/-- R99: decode inverts encode, for both alphabets and every value of SUBST_B1. -/
def Obligations.DecodeInvertsEncode : Prop :=
  ∀ (a : Alphabet) (subst : Int) (l : List Byte), base64Decode a subst (base64Encode a l) = l

/-- R96: padding stops only its own group: whatever follows an encoded text is decoded as if it stood alone. -/
def Obligations.PaddingStopsOnlyItsGroup : Prop :=
  ∀ (a : Alphabet) (subst : Int) (l tail : List Byte),
    base64Decode a subst (base64Encode a l ++ tail) = l ++ base64Decode a subst tail

/-- R100: the pre-pass removes 0x20, 0x0A, 0x0D and nothing else, and keeps the order. -/
def Obligations.StripRemovesThreeBytesOnly : Prop :=
  ∀ l : List Byte,
    (stripWhitespace l).Sublist l ∧
    ∀ b : Byte, (stripWhitespace l).count b = if b = 0x20 ∨ b = 0x0A ∨ b = 0x0D then 0 else l.count b

/-! ### The commands -/

/-- 41_command.md R74, 42_encode.md R85, R86: on a BUSY engine the encode commands complete: the text goes to OUT_BUF,
COUNT takes its length, BUSY falls, DONE and DONE_IP rise, and nothing else changes. That a completion runs also on operand
bytes not written since reset, as free draws, is reading (b) of R76, the model's choice (log 4). -/
def Obligations.EncodeCommandsComplete : Prop :=
  ∀ s : State, s.busy = true →
    exec .encStd s = .next { s with
      mem := s.mem.store 0x20000 (base64Encode .std (operand s)),
      outCount := BitVec.ofNat 17 (4 * ((s.latchLen.toNat + 2) / 3)),
      busy := false, done := true, doneIP := true } ∧
    exec .encUrl s = .next { s with
      mem := s.mem.store 0x20000 (base64Encode .url (operand s)),
      outCount := BitVec.ofNat 17 (4 * ((s.latchLen.toNat + 2) / 3)),
      busy := false, done := true, doneIP := true }

/-- R74, 43_decode.md R102 to R105: on a BUSY engine the four decode commands complete, whatever the bytes: the decoded
bytes go to OUT_BUF, COUNT takes their number, BUSY falls, DONE and DONE_IP rise, and nothing else changes. That a
completion runs also on operand bytes not written since reset, as free draws, is reading (b) of R76, the model's choice
(log 4). -/
def Obligations.DecodeCommandsComplete : Prop :=
  ∀ s : State, s.busy = true →
    exec .decStd s = .next { s with
      mem := s.mem.store 0x20000 (base64Decode .std s.cfg.substB1 (operand s)),
      outCount := BitVec.ofNat 17 (base64Decode .std s.cfg.substB1 (operand s)).length,
      busy := false, done := true, doneIP := true } ∧
    exec .decUrl s = .next { s with
      mem := s.mem.store 0x20000 (base64Decode .url s.cfg.substB1 (operand s)),
      outCount := BitVec.ofNat 17 (base64Decode .url s.cfg.substB1 (operand s)).length,
      busy := false, done := true, doneIP := true } ∧
    exec .decStdWs s = .next { s with
      mem := s.mem.store 0x20000 (base64Decode .std s.cfg.substB1 (stripWhitespace (operand s))),
      outCount := BitVec.ofNat 17 (base64Decode .std s.cfg.substB1 (stripWhitespace (operand s))).length,
      busy := false, done := true, doneIP := true } ∧
    exec .decUrlWs s = .next { s with
      mem := s.mem.store 0x20000 (base64Decode .url s.cfg.substB1 (stripWhitespace (operand s))),
      outCount := BitVec.ofNat 17 (base64Decode .url s.cfg.substB1 (stripWhitespace (operand s))).length,
      busy := false, done := true, doneIP := true }

/-- R72: on an idle engine each command whose length fits IN_BUF starts: the two latches are taken and BUSY rises. -/
def Obligations.CommandsStartWhenIdle : Prop :=
  ∀ (i : Instr) (s : State), s.busy = false → s.inLen.toNat ≤ s.cfg.inCap →
    exec i s = .next { s with latchOp := (encode i).extractLsb' 0 3, latchLen := s.inLen, busy := true }

/-- R72, R73, 60_exceptions.md R115: a legal command with IN_LEN.LEN > IN_CAP raises LEN_RANGE, cause code 2. -/
def Obligations.TooLongInputRaisesLenRange : Prop :=
  ∀ (i : Instr) (s : State), s.busy = false → s.cfg.inCap < s.inLen.toNat →
    exec i s = .next { s with err := true, cause := 2, outCount := 0, errIP := true }

/-- R74, 10_state.md R26, R27: the frame of a completion, for every command. The bytes stored to are OUT_BUF[k] for k
below the length of the command's result; every other byte, IN_BUF's among them, reads as before. Operand bytes not
written since reset are free draws (log 4). -/
def Obligations.CompletionFrame : Prop :=
  ∀ (i : Instr) (s t : State), s.busy = true → exec i s = .next t →
    (∀ k (h : k < (commandResult i s.cfg.substB1 (operand s)).length),
      t.mem.read (outBufBase + k) = some (commandResult i s.cfg.substB1 (operand s))[k]) ∧
    (∀ a, a < outBufBase ∨ outBufBase + (commandResult i s.cfg.substB1 (operand s)).length ≤ a →
      t.mem.read a = s.mem.read a) ∧
    t.cfg = s.cfg ∧ t.cmd = s.cmd ∧ t.err = s.err ∧ t.cause = s.cause ∧ t.inLen = s.inLen ∧
    t.doneIE = s.doneIE ∧ t.errIE = s.errIE ∧ t.errIP = s.errIP ∧ t.latchOp = s.latchOp ∧
    t.latchLen = s.latchLen ∧ t.resp = s.resp ∧ t.schedule = s.schedule ∧ t.draws = s.draws

/-- 30_encoding.md R53: the result is a function of IN_BUF[0 .. LATCH_LEN) alone: bytes stored past it change neither the
count nor a byte of the result. Both completions share the draw counter: for operand bytes not written since reset the
statement rests on the model's choice that equal counters give equal draws (log 4). -/
def Obligations.ResultIgnoresBytesPastLength : Prop :=
  ∀ (i : Instr) (s t : State) (j : Nat) (bs : List Byte),
    s.busy = true → s.latchLen.toNat ≤ j → exec i s = .next t →
    ∃ t', exec i { s with mem := s.mem.store (inBufBase + j) bs } = .next t' ∧ t'.outCount = t.outCount ∧
      ∀ k < (commandResult i s.cfg.substB1 (operand s)).length,
        t'.mem.read (outBufBase + k) = t.mem.read (outBufBase + k)

/-! ### Steps that run a command -/

/-- 41_command.md R71, R72: a CMD write of a legal word while idle is one step: CMD takes the word, DONE, ERR and CAUSE
are cleared, and the command's meaning runs. What the model's step adds: the schedule moves on, the response is OKAY, the
draw counter advances (log 1, log 4, log 7). -/
def Obligations.CmdWriteRunsDecodedCommand : Prop :=
  ∀ (s : State) (rest : List Event) (w : Word) (i : Instr),
    s.busy = false → decodeWord w = .command i →
    s.schedule = .transaction (.wr .four 0x00000 w) :: rest →
    step s = exec i { s with
      schedule := rest, draws := s.draws + 1, resp := some ⟨.okay, none⟩,
      cmd := w, done := false, err := false, cause := 0 }

/-- The placed word runs next: the model's placing of an instruction (log 2) and R71. -/
def Obligations.PlacedWordRunsNext : Prop :=
  ∀ (s : State) (i : Instr),
    step (s.withFetchWord 32 (encode i).toNat) = exec i { s with
      busy := false, draws := s.draws + 1, resp := some ⟨.okay, none⟩,
      cmd := encode i, done := false, err := false, cause := 0 }

/-- R74, R75: the engine's step runs the latched command, on the engine's turn and when no other step is left. -/
def Obligations.EngineStepRunsLatchedCommand : Prop :=
  ∀ (s : State) (rest : List Event) (i : Instr),
    s.busy = true → s.latchOp = (encode i).extractLsb' 0 3 →
    (s.schedule = .engineTurn :: rest ∨ (s.schedule = [] ∧ rest = [])) →
    step s = exec i { s with schedule := rest, resp := none, draws := s.draws + 1 }

/-- R55, R71, R73, 60_exceptions.md R115, R116: a word that is none of the six, written to CMD while idle, is stored in CMD
and raises ILLEGAL_CMD, cause code 1, whatever IN_LEN holds; no buffer changes and BUSY stays 0. -/
def Obligations.IllegalWordRaisesIllegalCmd : Prop :=
  ∀ (s : State) (rest : List Event) (w : Word),
    s.busy = false → (∀ i, w ≠ encode i) →
    s.schedule = .transaction (.wr .four 0x00000 w) :: rest →
    step s = .next { s with
      schedule := rest, draws := s.draws + 1, resp := some ⟨.okay, none⟩,
      cmd := w, done := false, err := true, cause := 1, outCount := 0, errIP := true }

/-- 70_reset_and_hazards.md R131: a whole command. With the payload written to IN_BUF and its length in IN_LEN, the CMD
write and the engine's turn leave the command's result in OUT_BUF, its length in OUT_LEN, DONE set, and every byte
outside the result as it was. -/
def Obligations.CommandRunDeliversResult : Prop :=
  ∀ (i : Instr) (s : State) (rest : List Event) (l : List Byte),
    s.Inv → s.busy = false →
    s.schedule = .transaction (.wr .four 0x00000 (encode i)) :: .engineTurn :: rest →
    s.inLen.toNat = l.length → l.length ≤ s.cfg.inCap →
    (∀ k (h : k < l.length), s.mem.read (inBufBase + k) = some l[k]) →
    ∃ t, run 2 s = .next t ∧
      t.outCount.toNat = (commandResult i s.cfg.substB1 l).length ∧
      (∀ k (h : k < (commandResult i s.cfg.substB1 l).length),
        t.mem.read (outBufBase + k) = some (commandResult i s.cfg.substB1 l)[k]) ∧
      (∀ a, a < outBufBase ∨ outBufBase + (commandResult i s.cfg.substB1 l).length ≤ a →
        t.mem.read a = s.mem.read a) ∧
      t.busy = false ∧ t.done = true ∧ t.err = false ∧ t.cause = 0 ∧ t.doneIP = true ∧ t.errIP = s.errIP ∧
      t.cmd = encode i ∧ t.inLen = s.inLen ∧ t.schedule = rest

/-! ### Transactions -/

/-- 20_memory.md R33, R37, R38: which transactions lie inside which region, for every legal IN_CAP. -/
def Obligations.AddressMapRegions : Prop :=
  ∀ (p : Config.Params) (a n : Nat), p.legal = true → 0 < n →
    (regionOf p a n = some .registers ↔ a + n ≤ 0x1C) ∧
    (regionOf p a n = some .alphaStd ↔ 0x100 ≤ a ∧ a + n ≤ 0x180) ∧
    (regionOf p a n = some .alphaUrl ↔ 0x180 ≤ a ∧ a + n ≤ 0x200) ∧
    (regionOf p a n = some .decStd ↔ 0x200 ≤ a ∧ a + n ≤ 0x300) ∧
    (regionOf p a n = some .decUrl ↔ 0x300 ≤ a ∧ a + n ≤ 0x400) ∧
    (regionOf p a n = some .inBuf ↔ 0x10000 ≤ a ∧ a + n ≤ 0x10000 + p.inCap) ∧
    (regionOf p a n = some .outBuf ↔ 0x20000 ≤ a ∧ a + n ≤ 0x20000 + 4 * ((p.inCap + 2) / 3))

/-- 44_host_access.md R107, 20_memory.md R41, 60_exceptions.md R116: the order of the checks. -/
def Obligations.TransactionCheckOrder : Prop :=
  ∀ (s : State) (d : Dir) (a n : Nat),
    (regionOf s.cfg a n = none → busCheck s d a n = .busError .decerr) ∧
    ∀ r, regionOf s.cfg a n = some r →
      ((¬ if r = .registers then n = 4 ∧ a % 4 = 0 else a % n = 0) → busCheck s d a n = .busError .slverr) ∧
      ((if r = .registers then n = 4 ∧ a % 4 = 0 else a % n = 0) → s.busy = false → busCheck s d a n = .pass r)

/-- R108: of the mapped and aligned transactions exactly four kinds are refused while BUSY, with SLVERR; all others are
allowed, and while BUSY = 0 all are. -/
def Obligations.BusyInterlockRefusesFourCases : Prop :=
  ∀ (s : State) (d : Dir) (a n : Nat) (r : Region),
    regionOf s.cfg a n = some r → sizeAligned r a n = true →
    (busCheck s d a n = .busError .slverr ↔
      s.busy = true ∧
        ((d = .write ∧ r = .registers ∧ a = 0x00000) ∨ (d = .write ∧ r = .registers ∧ a = 0x00008) ∨
          (d = .write ∧ r = .inBuf) ∨ (d = .read ∧ r = .outBuf))) ∧
    (busCheck s d a n ≠ .busError .slverr → busCheck s d a n = .pass r)

/-- R106, 60_exceptions.md R114: a refused transaction changes no register, buffer, flag or pending bit; a refused read
returns data 0. -/
def Obligations.RefusedTransactionChangesNothing : Prop :=
  ∀ (s : State) (t : Transaction) (rest : List Event) (k : BusResponse),
    s.schedule = .transaction t :: rest → busCheck s t.dir t.off.toNat t.size.bytes = .busError k →
    step s = .next { s with
      schedule := rest, draws := s.draws + 1,
      resp := some ⟨k, if t.dir = .read then some 0 else none⟩ }

/-- 20_memory.md R44: no read of any offset has a side effect. That a read of a buffer byte not written since reset is
answered with a free draw is the model's choice (log 4). -/
def Obligations.ReadsHaveNoSideEffect : Prop :=
  ∀ (s : State) (t : Transaction) (rest : List Event),
    t.dir = .read → s.schedule = .transaction t :: rest →
    ∃ r : Response, step s = .next { s with schedule := rest, draws := s.draws + 1, resp := some r }

/-- 44_host_access.md R109, 10_state.md R19 to R25: what a read of each register returns, BUSY or not. -/
def Obligations.RegisterReadValues : Prop :=
  ∀ (s : State) (rest : List Event) (off : Offset) (v : Word),
    s.cfg.legal = true →
    (off, v) ∈ [((0x00000 : Offset), s.cmd),
      (0x00004, BitVec.ofNat 32 (s.busy.toNat + 2 * s.done.toNat + 4 * s.err.toNat + 256 * s.cause.toNat)),
      (0x00008, BitVec.ofNat 32 s.inLen.toNat),
      (0x0000C, BitVec.ofNat 32 s.outCount.toNat),
      (0x00010, BitVec.ofNat 32 (s.doneIE.toNat + 2 * s.errIE.toNat)),
      (0x00014, BitVec.ofNat 32 (s.doneIP.toNat + 2 * s.errIP.toNat)),
      (0x00018, BitVec.ofNat 32 s.cfg.inCap)] →
    s.schedule = .transaction (.rd .four off) :: rest →
    step s = .next { s with schedule := rest, draws := s.draws + 1, resp := some ⟨.okay, some v⟩ }

/-- 20_memory.md R35, R36: what a byte read of each ROM window returns, BUSY or not. -/
def Obligations.RomWindowReads : Prop :=
  ∀ (s : State) (rest : List Event) (a : Alphabet) (i : Nat),
    (i < 128 →
      s.schedule = .transaction (.rd .one (BitVec.ofNat 18 ((if a = .std then 0x100 else 0x180) + i))) :: rest →
      step s = .next { s with
        schedule := rest, draws := s.draws + 1,
        resp := some ⟨.okay, some (if i ≤ 64 then (encSym a i).setWidth 32 else 0)⟩ }) ∧
    (i < 256 →
      s.schedule = .transaction (.rd .one (BitVec.ofNat 18 ((if a = .std then 0x200 else 0x300) + i))) :: rest →
      step s = .next { s with
        schedule := rest, draws := s.draws + 1,
        resp := some ⟨.okay, some ((romEntry (decRom a) i).setWidth 32)⟩ })

/-- 20_memory.md R40, R42: a read moves the byte at offset a + k in data bits 8k+7 to 8k, and the bits above are 0. -/
def Obligations.ReadDataLittleEndian : Prop :=
  ∀ (s : State) (r : Region) (a n : Nat), n ≤ 4 →
    (∀ k < n, (memRead s r a n).extractLsb' (8 * k) 8 = byteAt s r (a + k)) ∧
    (memRead s r a n).toNat < 2 ^ (8 * n)

/-- 44_host_access.md R109, 20_memory.md R35 to R38, R42: every read that passes the checks, of whatever size and region,
BUSY or not, is answered OKAY with `MemRead` at the step's own state and changes nothing. Byte k of the data, for k below
the size, is the byte at offset k of the read: of a buffer the byte written there, of a ROM window the entry or the zero
byte. A buffer byte not written since reset is a free draw of this step, the model's choice (log 4), of which nothing
is said. -/
def Obligations.HostReadAnswersRegionBytes : Prop :=
  ∀ (s : State) (rest : List Event) (t : Transaction) (r : Region),
    t.dir = .read → s.schedule = .transaction t :: rest →
    busCheck s .read t.off.toNat t.size.bytes = .pass r →
    ∃ v : Word,
      step s = .next { s with schedule := rest, draws := s.draws + 1, resp := some ⟨.okay, some v⟩ } ∧
      v = memRead (beginStep rest s) r t.off.toNat t.size.bytes ∧
      v.toNat < 2 ^ (8 * t.size.bytes) ∧
      ∀ k < t.size.bytes,
        ((r = .inBuf ∨ r = .outBuf) →
          ∀ b, s.mem.read (t.off.toNat + k) = some b → v.extractLsb' (8 * k) 8 = b) ∧
        (r = .alphaStd → v.extractLsb' (8 * k) 8 =
          if t.off.toNat + k - 0x100 ≤ 64 then encSym .std (t.off.toNat + k - 0x100) else 0) ∧
        (r = .alphaUrl → v.extractLsb' (8 * k) 8 =
          if t.off.toNat + k - 0x180 ≤ 64 then encSym .url (t.off.toNat + k - 0x180) else 0) ∧
        (r = .decStd → v.extractLsb' (8 * k) 8 = romEntry (decRom .std) (t.off.toNat + k - 0x200)) ∧
        (r = .decUrl → v.extractLsb' (8 * k) 8 = romEntry (decRom .url) (t.off.toNat + k - 0x300))

/-- 10_state.md R21, R23, R24, 44_host_access.md R110: writes to IN_LEN (while idle), IRQ_EN and IRQ_PEND (at any time). -/
def Obligations.WritableRegistersTakeWrites : Prop :=
  ∀ (s : State) (rest : List Event) (v : Word),
    (s.busy = false → s.schedule = .transaction (.wr .four 0x00008 v) :: rest →
      step s = .next { s with
        schedule := rest, draws := s.draws + 1, resp := some ⟨.okay, none⟩,
        inLen := BitVec.ofNat 17 (v.toNat % 131072) }) ∧
    (s.schedule = .transaction (.wr .four 0x00010 v) :: rest →
      step s = .next { s with
        schedule := rest, draws := s.draws + 1, resp := some ⟨.okay, none⟩,
        doneIE := v.getLsbD 0, errIE := v.getLsbD 1 }) ∧
    (s.schedule = .transaction (.wr .four 0x00014 v) :: rest →
      step s = .next { s with
        schedule := rest, draws := s.draws + 1, resp := some ⟨.okay, none⟩,
        doneIP := if v.getLsbD 0 then false else s.doneIP,
        errIP := if v.getLsbD 1 then false else s.errIP })

/-- R110: writes to STATUS, OUT_LEN, CAP, the ROM windows and OUT_BUF are answered OKAY and change nothing. -/
def Obligations.ReadOnlyLocationsIgnoreWrites : Prop :=
  ∀ (s : State) (rest : List Event) (t : Transaction),
    s.cfg.legal = true → t.dir = .write → t.off.toNat % t.size.bytes = 0 →
    ((t.size = .four ∧ (t.off = 0x00004 ∨ t.off = 0x0000C ∨ t.off = 0x00018)) ∨
      (0x100 ≤ t.off.toNat ∧ t.off.toNat + t.size.bytes ≤ 0x400) ∨
      (0x20000 ≤ t.off.toNat ∧ t.off.toNat + t.size.bytes ≤ 0x20000 + s.cfg.outCap)) →
    s.schedule = .transaction t :: rest →
    step s = .next { s with schedule := rest, draws := s.draws + 1, resp := some ⟨.okay, none⟩ }

/-- 20_memory.md R37, R40, R42, 44_host_access.md R110: an aligned write inside IN_BUF while idle stores its bytes,
little-endian, changes no other byte, and the same read then returns them. -/
def Obligations.InBufStoreThenLoad : Prop :=
  ∀ (s : State) (rest : List Event) (size : Size) (i : Nat) (v : Word),
    s.cfg.legal = true → s.busy = false → i % size.bytes = 0 → i + size.bytes ≤ s.cfg.inCap →
    s.schedule = .transaction (.wr size (BitVec.ofNat 18 (0x10000 + i)) v) ::
      .transaction (.rd size (BitVec.ofNat 18 (0x10000 + i))) :: rest →
    ∃ m : Memory,
      run 2 s = .next { s with
        schedule := rest, draws := s.draws + 2, mem := m,
        resp := some ⟨.okay, some (BitVec.ofNat 32 (v.toNat % 2 ^ (8 * size.bytes)))⟩ } ∧
      (∀ k < size.bytes, m.read (0x10000 + i + k) = some (v.extractLsb' (8 * k) 8)) ∧
      ∀ a, a < 0x10000 + i ∨ 0x10000 + i + size.bytes ≤ a → m.read a = s.mem.read a

/-! ### Interrupt and reset -/

/-- 60_exceptions.md R118: the IRQ line is the level of the enabled pending bits, and 0 after reset. -/
def Obligations.IrqLineIsEnabledPending : Prop :=
  (∀ s : State, irqLine s = true ↔
    (s.doneIP = true ∧ s.doneIE = true) ∨ (s.errIP = true ∧ s.errIE = true)) ∧
  ∀ p, irqLine (State.resetWith p) = false

/-- 70_reset_and_hazards.md R128: what the reset input leaves, from every state; the parameters are constants, and the
model's schedule and draw counter run on (log 1, log 4). -/
def Obligations.ResetLeavesSpecValues : Prop :=
  ∀ (s : State) (rest : List Event), s.schedule = .resetInput :: rest →
    step s = .next
      { cfg := s.cfg, cmd := 0, busy := false, done := false, err := false, cause := 0, inLen := 0, outCount := 0,
        doneIE := false, errIE := false, doneIP := false, errIP := false, latchOp := 0, latchLen := 0, mem := [],
        resp := none, schedule := rest, draws := s.draws + 1 }

/-- R129: a reset while BUSY aborts the command: the engine's next turn completes nothing. -/
def Obligations.ResetAbortsCommand : Prop :=
  ∀ (s : State) (rest : List Event), s.busy = true → s.schedule = .resetInput :: .engineTurn :: rest →
    ∃ t, run 2 s = .next t ∧ t.busy = false ∧ t.done = false ∧ t.outCount = 0 ∧ t.doneIP = false ∧ t.mem = [] ∧
      t.schedule = rest

/-! ### Rules of the whole machine -/

/-- 60_exceptions.md R117: each pending bit is cleared only by a host write of 1 to it or by reset. -/
def Obligations.PendingBitsClearedOnlyByHostOrReset : Prop :=
  ∀ s t : State, step s = .next t →
    (s.doneIP = true → t.doneIP = false →
      (∃ v, s.schedule.head? = some (.transaction (.wr .four 0x00014 v)) ∧ v.getLsbD 0 = true) ∨
      s.schedule.head? = some .resetInput) ∧
    (s.errIP = true → t.errIP = false →
      (∃ v, s.schedule.head? = some (.transaction (.wr .four 0x00014 v)) ∧ v.getLsbD 1 = true) ∨
      s.schedule.head? = some .resetInput)

/-- 41_command.md R74: only the completion step and reset clear BUSY. -/
def Obligations.BusyClearedOnlyByCompletionOrReset : Prop :=
  ∀ s t : State, step s = .next t → s.busy = true → t.busy = false →
    ((s.schedule = [] ∨ s.schedule.head? = some .engineTurn) ∧ t.done = true ∧ t.doneIP = true) ∨
    s.schedule.head? = some .resetInput

/-- 10_state.md R22: COUNT is written by a completion, by a command error, with 0, and by reset, and at no other step. -/
def Obligations.CountWrittenAtCompletionOrError : Prop :=
  ∀ s t : State, step s = .next t → t.outCount ≠ s.outCount →
    (s.busy = true ∧ t.busy = false ∧ t.done = true) ∨
    (s.busy = false ∧ t.err = true ∧ t.outCount = 0 ∧
      ∃ w, s.schedule.head? = some (.transaction (.wr .four 0x00000 w))) ∨
    s.schedule.head? = some .resetInput

/-- 10_state.md R26: below OUT_BUF only a host write at that byte, or reset, changes what memory reads; no command does. -/
def Obligations.InBufWrittenOnlyByHost : Prop :=
  ∀ (s t : State) (a : Nat), step s = .next t → a < 0x20000 → t.mem.read a ≠ s.mem.read a →
    (∃ u : Transaction, s.schedule.head? = some (.transaction u) ∧ u.dir = .write ∧ s.busy = false ∧
      u.off.toNat ≤ a ∧ a < u.off.toNat + u.size.bytes) ∨
    s.schedule.head? = some .resetInput

/-- 10_state.md R27: OUT_BUF bytes change only at a completion, below its COUNT, or at reset. -/
def Obligations.OutBufWrittenOnlyByCompletion : Prop :=
  ∀ (s t : State) (a : Nat), s.Inv → step s = .next t → 0x20000 ≤ a → t.mem.read a ≠ s.mem.read a →
    (s.busy = true ∧ t.busy = false ∧ t.done = true ∧ a < 0x20000 + t.outCount.toNat) ∨
    s.schedule.head? = some .resetInput

/-- 44_host_access.md R108, 10_state.md R22, R29: while a command runs its word, its length, its operand and the old
result stay as they are. -/
def Obligations.BusyKeepsCommandFixed : Prop :=
  ∀ s t : State, step s = .next t → s.busy = true → t.busy = true →
    t.cmd = s.cmd ∧ t.inLen = s.inLen ∧ t.latchOp = s.latchOp ∧ t.latchLen = s.latchLen ∧ t.mem = s.mem ∧
    t.outCount = s.outCount ∧ t.done = s.done ∧ t.err = s.err ∧ t.cause = s.cause

/-- 10_state.md R25, 00_scope.md R8: CAP and SUBST_B1 are constant: no step changes them. -/
def Obligations.ParametersConstant : Prop :=
  ∀ s t : State, step s = .next t → t.cfg = s.cfg

/-- 10_state.md R20, R22, R29, 20_memory.md R33: the invariant holds after reset under every legal parameter value. -/
def Obligations.ResetMeetsInvariant : Prop :=
  (∀ p : Config.Params, p.legal = true → (State.resetWith p).Inv) ∧ State.reset.Inv

/-- The same rules: every step keeps the invariant, from every state that meets it. -/
def Obligations.StepKeepsInvariant : Prop :=
  ∀ s t : State, s.Inv → step s = .next t → t.Inv

/-- 60_exceptions.md R113, 41_command.md R75: no transaction, no data and no engine turn stops the machine: from every
state that meets the invariant the step answers a next state. That bytes not written since reset stop nothing is reading
(b) of R76, the model's choice (log 4). -/
def Obligations.StepNeverStops : Prop :=
  ∀ s : State, s.Inv → s.continues

/-- 41_command.md R77: a BUSY engine completes, whatever transactions come first, unless a reset does: every scheduled
reset stands after a turn of the engine. The bound is the model's own: the scheduled steps and one more (log 3). That the
completion runs also on operand bytes not written since reset is reading (b) of R76, the model's choice (log 4). -/
def Obligations.BusyEngineCompletes : Prop :=
  ∀ s : State, s.Inv → s.busy = true →
    (∀ before after, s.schedule = before ++ .resetInput :: after → .engineTurn ∈ before) →
    ∃ (k : Nat) (t : State), k ≤ s.schedule.length + 1 ∧ run k s = .next t ∧ t.busy = false ∧ t.done = true

/-- 70_reset_and_hazards.md R137: in a final state nothing more happens; a BUSY state is never final (the model's choice of
a step that changes nothing: log 3). -/
def Obligations.FinalStateStays : Prop :=
  ∀ s : State, (s.final → ∀ k, run k s = .next s) ∧ (s.busy = true → ¬ s.final)
end

