-- ==== Sys2Proof/Laws/Codec.lean ====
section
/-! SUPPORT. The small laws of the encode and decode functions: the arithmetic of a group, the lengths of its output, and
that `low8Or` is the low byte of the OR of two unbounded integers. -/

namespace Sys2Proof.Machine

/-! ### Integers of a group -/

/-- A 16-bit value of two bytes (42_encode.md R80). -/
theorem twoBytes_eq (x y : Byte) : (x.toNat <<< 8) ||| y.toNat = x.toNat * 256 + y.toNat := by
  rw [← Nat.shiftLeft_add_eq_or_of_lt y.isLt, Nat.shiftLeft_eq]

/-- The 24-bit big-endian integer of a group (R78). -/
theorem threeBytes_eq (x y z : Byte) :
    (x.toNat <<< 16) ||| (y.toNat <<< 8) ||| z.toNat = x.toNat * 65536 + y.toNat * 256 + z.toNat := by
  have h : (x.toNat <<< 16) ||| (y.toNat <<< 8) = (x.toNat * 256 + y.toNat) <<< 8 := by
    rw [← twoBytes_eq, Nat.shiftLeft_or_distrib, ← Nat.shiftLeft_add]
  rw [h, ← Nat.shiftLeft_add_eq_or_of_lt z.isLt, Nat.shiftLeft_eq]
  ring

/-- A field is a quotient and a remainder (00_scope.md R10). -/
theorem field_eq (v hi lo : Nat) : field v hi lo = v / 2 ^ lo % 2 ^ (hi - lo + 1) := by
  rw [field, Nat.shiftRight_eq_div_pow]

/-- The mask 0x3F keeps six bits. -/
theorem mask6_eq (v : Nat) : v &&& 0x3F = v % 64 := Nat.and_two_pow_sub_one_eq_mod v 6

/-! ### Lengths -/

@[simp] theorem length_encodeGroup (a : Alphabet) (x y z : Byte) : (encodeGroup a x y z).length = 4 := rfl

@[simp] theorem length_encodeTail1 (a : Alphabet) (x : Byte) : (encodeTail1 a x).length = 4 := rfl

@[simp] theorem length_encodeTail2 (a : Alphabet) (x y : Byte) : (encodeTail2 a x y).length = 4 := rfl

theorem length_groupTail_le (b1 : Int) (e2 e3 : Option Int) :
    (groupTail b1 e2 e3).length ≤ e2.toList.length + e3.toList.length := by
  unfold groupTail
  split
  · split
    · split <;> simp
    · simp
  · split <;> simp
  · simp

theorem length_decodeGroup_le (a : Alphabet) (k : Int) (c0 : Byte) (p1 p2 p3 : Option Byte) :
    (decodeGroup a k c0 p1 p2 p3).length ≤ 1 + p2.toList.length + p3.toList.length := by
  have := length_groupTail_le (secondSym k (lookupSym a p1)) (lookupSym a p2) (lookupSym a p3)
  have h : ∀ p : Option Byte, (lookupSym a p).toList.length = p.toList.length := by intro p; cases p <;> rfl
  rw [h, h] at this
  simp only [decodeGroup, List.length_cons]
  omega

/-! ### Validity -/

theorem validSym_some (e : Int) : validSym (some e) = true ↔ 0 ≤ e ∧ e ≤ 63 := by simp [validSym]

@[simp] theorem validSym_none : validSym none = false := rfl

@[simp] theorem lookupSym_some (a : Alphabet) (c : Byte) : lookupSym a (some c) = some (decVal a c) := rfl

@[simp] theorem lookupSym_none (a : Alphabet) : lookupSym a none = none := rfl

/-! ### One turn of the decode loop -/

/-- A byte with no valid value is passed over (43_decode.md R90). -/
theorem base64Decode_cons_invalid {a : Alphabet} {c0 : Byte} (h : validSym (some (decVal a c0)) = false) (k : Int)
    (l : List Byte) : base64Decode a k (c0 :: l) = base64Decode a k l := by
  rw [base64Decode.eq_def]
  simp [h]

/-- A byte with a valid value starts a group (R91). -/
theorem base64Decode_cons_valid {a : Alphabet} {c0 : Byte} (h : validSym (some (decVal a c0)) = true) (k : Int)
    (c1 c2 c3 : Byte) (l : List Byte) :
    base64Decode a k (c0 :: c1 :: c2 :: c3 :: l) =
        decodeGroup a k c0 (some c1) (some c2) (some c3) ++ base64Decode a k l ∧
      base64Decode a k [c0, c1, c2] = decodeGroup a k c0 (some c1) (some c2) none ∧
      base64Decode a k [c0, c1] = decodeGroup a k c0 (some c1) none none ∧
      base64Decode a k [c0] = decodeGroup a k c0 none none none := by
  simp [base64Decode, h]

/-! ### The low byte of an OR -/

theorem getLsbD_low8 (v : Int) (k : Nat) (h : k < 8) : (low8 v).getLsbD k = v.testBit k := by
  have hn : ∀ m : Nat, (BitVec.ofNat 8 m)[k] = m.testBit k := fun m => by
    rw [← BitVec.getLsbD_eq_getElem h, BitVec.getLsbD_ofNat]; simp [h]
  rcases v with m | m
  · simp [low8, h, Int.testBit, hn]
  · simp [low8, BitVec.ofInt_negSucc_eq_not_ofNat, h, Int.testBit, hn]

/-- The model's OR of low bytes is the low byte of the OR on unbounded integers (00_scope.md R11, 43_decode.md R95). -/
theorem low8Or_eq (u v : Int) : low8Or u v = low8 (Int.lor u v) := by
  apply BitVec.eq_of_getLsbD_eq
  intro k hk
  rw [low8Or, BitVec.getLsbD_or, getLsbD_low8 _ k hk, getLsbD_low8 _ k hk, getLsbD_low8 _ k hk, Int.testBit_lor]

/-- The OR of two integers whose bits do not meet is their sum. -/
theorem low8Or_of_lt (u v n : Nat) (h : v < 2 ^ n) :
    low8Or ((u * 2 ^ n : Nat) : Int) (v : Int) = BitVec.ofNat 8 (u * 2 ^ n + v) := by
  rw [low8Or_eq]
  show BitVec.ofInt 8 (((u * 2 ^ n) ||| v : Nat) : Int) = _
  rw [← Nat.shiftLeft_eq, ← Nat.shiftLeft_add_eq_or_of_lt h]
  exact BitVec.ofInt_natCast ..

end Sys2Proof.Machine
end

