-- ==== Sys2Proof/Laws/Encoding.lean ====
section
/-! SUPPORT. The laws of the command format: a word is its four fields, and the little-endian bytes of a word. -/

namespace Sys2Proof

/-- Bit i of the word of given fields (30_encoding.md R52). -/
theorem getLsbD_wordOfFields (f : CommandFields) (i : Nat) (hi : i < 32) :
    (wordOfFields f).getLsbD i =
      if i = 0 then f.dir else if i = 1 then f.url else if i = 2 then f.ignws else f.rsvd.getLsbD (i - 3) := by
  simp only [wordOfFields, BitVec.getLsbD_or, BitVec.getLsbD_shiftLeft, BitVec.getLsbD_setWidth, BitVec.getLsbD_ofBool]
  rcases i with _ | _ | _ | i
  · simp
  · simp
  · simp
  · simp [hi, show ¬ i + 1 + 1 + 1 < 3 by omega, show i < 32 by omega]

/-- The four fields of a word make the word again: no bit of the format is dropped. -/
theorem wordOfFields_fieldsOfWord (w : Word) : wordOfFields (fieldsOfWord w) = w := by
  apply BitVec.eq_of_getLsbD_eq
  intro i hi
  rw [getLsbD_wordOfFields _ i hi]
  simp only [fieldsOfWord]
  rcases i with _ | _ | _ | i
  · simp
  · simp
  · simp
  · simp [show i < 29 by omega, Nat.add_comm 3 i]

/-- The fields of the word of given fields are those fields. -/
theorem fieldsOfWord_wordOfFields (f : CommandFields) : fieldsOfWord (wordOfFields f) = f := by
  obtain ⟨r, g, u, d⟩ := f
  simp only [fieldsOfWord, CommandFields.mk.injEq]
  refine ⟨?_, ?_, ?_, ?_⟩
  · apply BitVec.eq_of_getLsbD_eq
    intro i hi
    rw [BitVec.getLsbD_extractLsb', getLsbD_wordOfFields _ _ (by omega)]
    simp [hi, show ¬ 3 + i = 1 by omega, show ¬ 3 + i = 2 by omega]
  · rw [getLsbD_wordOfFields _ _ (by omega)]; simp
  · rw [getLsbD_wordOfFields _ _ (by omega)]; simp
  · rw [getLsbD_wordOfFields _ _ (by omega)]; simp

/-- Byte k of a little-endian value (20_memory.md R40). -/
theorem extractLsb'_wordOfBytes (bs : List Byte) (k : Nat) (hk : k < 4) :
    (wordOfBytes bs).extractLsb' (8 * k) 8 = bs.getD k 0 := by
  induction bs generalizing k with
  | nil => simp [wordOfBytes]
  | cons b bs ih =>
    rcases k with _ | k
    · apply BitVec.eq_of_getLsbD_eq
      intro i hi
      simp [wordOfBytes, hi, show i < 32 by omega]
    · have := ih k (by omega)
      rw [List.getD_cons_succ, ← this]
      apply BitVec.eq_of_getLsbD_eq
      intro i hi
      have hb : b.getLsbD (8 * (k + 1) + i) = false := BitVec.getLsbD_of_ge _ _ (by omega)
      simp [wordOfBytes, hi, hb, show 8 * (k + 1) + i < 32 by omega, show ¬ 8 * (k + 1) + i < 8 by omega,
        show 8 * (k + 1) + i - 8 = 8 * k + i by omega, BitVec.getLsbD_eq_getElem, show 8 * k + i < 32 by omega]

/-- Bit i of a little-endian value is bit i mod 8 of its byte i div 8. -/
theorem getLsbD_wordOfBytes (bs : List Byte) (i : Nat) (hi : i < 32) :
    (wordOfBytes bs).getLsbD i = (bs.getD (i / 8) 0).getLsbD (i % 8) := by
  rw [← extractLsb'_wordOfBytes bs (i / 8) (by omega), BitVec.getLsbD_extractLsb']
  simp [Nat.mod_lt, Nat.div_add_mod]

/-- The little-endian bytes of a word make its low bytes again. -/
theorem wordOfBytes_bytesOfWord (n : Nat) (w : Word) :
    wordOfBytes (bytesOfWord n w) = BitVec.ofNat 32 (w.toNat % 2 ^ (8 * n)) := by
  apply BitVec.eq_of_getLsbD_eq
  intro i hi
  rw [getLsbD_wordOfBytes _ i hi, BitVec.getLsbD_ofNat, Nat.testBit_mod_two_pow]
  simp only [bytesOfWord, List.getD_eq_getElem?_getD, List.getElem?_map]
  by_cases h : i < 8 * n
  · have hm : i % 8 < 8 := Nat.mod_lt i (by omega)
    simp only [List.getElem?_range (show i / 8 < n by omega), Option.map_some, Option.getD_some,
      BitVec.getLsbD_extractLsb', hm, Nat.div_add_mod, h, hi, decide_true, Bool.true_and]
    rfl
  · simp [h, show ¬ i / 8 < n by omega]

@[simp] theorem length_bytesOfWord (n : Nat) (w : Word) : (bytesOfWord n w).length = n := by simp [bytesOfWord]

theorem getElem_bytesOfWord (n : Nat) (w : Word) (k : Nat) (h : k < (bytesOfWord n w).length) :
    (bytesOfWord n w)[k] = w.extractLsb' (8 * k) 8 := by simp [bytesOfWord]

/-- Four bytes are the bytes of their little-endian word. -/
theorem bytesOfWord_wordOfBytes (b0 b1 b2 b3 : Byte) :
    bytesOfWord 4 (wordOfBytes [b0, b1, b2, b3]) = [b0, b1, b2, b3] := by
  apply List.ext_getElem (by simp)
  intro k h h'
  rw [getElem_bytesOfWord, extractLsb'_wordOfBytes _ k (by simpa using h)]
  rw [List.getD_eq_getElem?_getD, List.getElem?_eq_getElem h', Option.getD_some]

end Sys2Proof
end

