-- ==== Sys2Proof/Laws/Memory.lean ====
section
/-! SUPPORT. The laws of the buffers' memory: a read after a store, the canonical form, where listed bytes lie. -/

namespace Sys2Proof.Machine

@[simp] theorem Memory.read_nil (a : Nat) : Memory.read [] a = none := rfl

theorem Memory.read_cons (k : Nat) (b : Byte) (m : Memory) (a : Nat) :
    Memory.read ((k, b) :: m) a = if k = a then some b else Memory.read m a := rfl

/-- A memory none of whose cells is at an address reads nothing there. -/
theorem Memory.read_eq_none {m : Memory} {a : Nat} (h : ∀ c ∈ m, c.1 ≠ a) : Memory.read m a = none := by
  induction m with
  | nil => rfl
  | cons c m ih =>
    obtain ⟨k, b⟩ := c
    rw [read_cons, if_neg (h (k, b) (by simp))]
    exact ih fun c hc => h c (by simp [hc])

theorem Memory.read_append (m n : Memory) (a : Nat) :
    Memory.read (m ++ n) a = (Memory.read m a).or (Memory.read n a) := by
  induction m with
  | nil => rfl
  | cons c m ih =>
    obtain ⟨k, b⟩ := c
    simp only [List.cons_append, read_cons]
    split <;> simp_all

/-- Keeping the cells that pass a test of their address keeps what passing addresses read. -/
theorem Memory.read_filter (m : Memory) (p : Nat → Bool) (a : Nat) :
    Memory.read (m.filter fun c => p c.1) a = if p a then Memory.read m a else none := by
  induction m with
  | nil => simp
  | cons c m ih =>
    obtain ⟨k, b⟩ := c
    by_cases hk : p k <;> by_cases ha : k = a <;> simp_all [read_cons]

@[simp] theorem cellsFrom_nil (a : Nat) : cellsFrom a [] = [] := rfl

@[simp] theorem cellsFrom_cons (a : Nat) (b : Byte) (bs : List Byte) :
    cellsFrom a (b :: bs) = (a, b) :: cellsFrom (a + 1) bs := rfl

theorem mem_cellsFrom {a : Nat} {bs : List Byte} {c : Host.Cell} (h : c ∈ cellsFrom a bs) :
    a ≤ c.1 ∧ c.1 < a + bs.length := by
  induction bs generalizing a with
  | nil => simp at h
  | cons b bs ih =>
    rcases List.mem_cons.mp h with rfl | h
    · simp
    · have := ih h; simp only [List.length_cons]; omega

theorem read_cellsFrom (a : Nat) (bs : List Byte) (x : Nat) :
    Memory.read (cellsFrom a bs) x = if a ≤ x then bs[x - a]? else none := by
  induction bs generalizing a with
  | nil => simp
  | cons b bs ih =>
    rw [cellsFrom_cons, Memory.read_cons, ih]
    rcases Nat.lt_trichotomy x a with h | h | h
    · simp [show ¬ a ≤ x by omega, show ¬ a + 1 ≤ x by omega, show a ≠ x by omega]
    · simp [h]
    · obtain ⟨d, rfl⟩ : ∃ d, x = a + 1 + d := ⟨x - (a + 1), by omega⟩
      rw [if_neg (by omega), if_pos (by omega), if_pos (by omega)]
      simp [show a + 1 + d - a = d + 1 by omega]

/-- What every address reads after a store: the stored bytes in their range, elsewhere what it read before. -/
theorem Memory.read_store (m : Memory) (a : Nat) (bs : List Byte) (x : Nat) :
    (m.store a bs).read x = if a ≤ x ∧ x < a + bs.length then bs[x - a]? else m.read x := by
  have hl := Memory.read_filter m (fun k => decide (k < a)) x
  have hr := Memory.read_filter m (fun k => decide (a + bs.length ≤ k)) x
  rw [Memory.store, read_append, read_append, read_cellsFrom, hl, hr]
  rcases Nat.lt_or_ge x a with h1 | h1
  · simp [h1, show ¬ a ≤ x by omega, show ¬ a + bs.length ≤ x by omega]
  · rcases Nat.lt_or_ge x (a + bs.length) with h2 | h2
    · simp [h1, h2, show ¬ x < a by omega, show x - a < bs.length by omega]
    · simp [h1, h2, show ¬ x < a by omega, show ¬ x < a + bs.length by omega,
        show bs.length ≤ x - a by omega]

theorem Memory.read_store_outside {m : Memory} {a : Nat} {bs : List Byte} {x : Nat}
    (h : x < a ∨ a + bs.length ≤ x) : (m.store a bs).read x = m.read x := by
  rw [read_store, if_neg (by omega)]

theorem Memory.read_store_inside (m : Memory) {a k : Nat} {bs : List Byte} (h : k < bs.length) :
    (m.store a bs).read (a + k) = some bs[k] := by
  rw [read_store, if_pos (by omega)]
  simp [h]

theorem cellsFrom_wf (a : Nat) (bs : List Byte) : Memory.wf (cellsFrom a bs) := by
  induction bs generalizing a with
  | nil => exact List.Pairwise.nil
  | cons b bs ih =>
    refine List.Pairwise.cons (fun c hc => ?_) (ih (a + 1))
    have := mem_cellsFrom hc
    simp only; omega

/-- A store keeps the canonical form. -/
theorem Memory.wf_store {m : Memory} (h : m.wf) (a : Nat) (bs : List Byte) : (m.store a bs).wf := by
  refine List.pairwise_append.mpr ⟨List.pairwise_append.mpr ⟨h.filter _, cellsFrom_wf a bs, ?_⟩, h.filter _, ?_⟩
  · intro c hc d hd
    have := mem_cellsFrom hd
    have hc := List.mem_filter.mp hc
    simp only [decide_eq_true_eq] at hc
    omega
  · intro c hc d hd
    have hd := (List.mem_filter.mp hd).2
    simp only [decide_eq_true_eq] at hd
    rcases List.mem_append.mp hc with hc | hc
    · have hc := (List.mem_filter.mp hc).2
      simp only [decide_eq_true_eq] at hc
      omega
    · have := mem_cellsFrom hc
      omega

/-- The cells of a store are old cells or lie in the stored range. -/
theorem Memory.mem_store {m : Memory} {a : Nat} {bs : List Byte} {c : Host.Cell} (h : c ∈ m.store a bs) :
    c ∈ m ∨ (a ≤ c.1 ∧ c.1 < a + bs.length) := by
  rcases List.mem_append.mp h with h | h
  · rcases List.mem_append.mp h with h | h
    · exact .inl (List.mem_filter.mp h).1
    · exact .inr (mem_cellsFrom h)
  · exact .inl (List.mem_filter.mp h).1

/-- A store of consecutive bytes is the spec's loop of single stores (41_command.md R74, 20_memory.md R42). -/
theorem Memory.read_store_cons (m : Memory) (a : Nat) (b : Byte) (bs : List Byte) (x : Nat) :
    (m.store a (b :: bs)).read x = ((m.store a [b]).store (a + 1) bs).read x := by
  simp only [read_store, List.length_cons, List.length_nil]
  rcases Nat.lt_trichotomy x a with h | h | h
  · simp [show ¬ a ≤ x by omega, show ¬ a + 1 ≤ x by omega]
  · subst h; simp
  · obtain ⟨d, rfl⟩ : ∃ d, x = a + 1 + d := ⟨x - (a + 1), by omega⟩
    simp [show a + 1 + d - a = d + 1 by omega, show a ≤ a + 1 + d by omega,
      show (a + 1 + d < a + (bs.length + 1)) ↔ d < bs.length by omega, show ¬ a + 1 + d ≤ a by omega]

/-- Two memories in canonical form that read alike everywhere are the same data. -/
theorem Memory.ext_read {m n : Memory} (hm : m.wf) (hn : n.wf) (h : ∀ a, m.read a = n.read a) : m = n := by
  induction m generalizing n with
  | nil =>
    cases n with
    | nil => rfl
    | cons c n => have := h c.1; simp [Memory.read] at this
  | cons c m ih =>
    obtain ⟨k, b⟩ := c
    cases n with
    | nil => have := h k; simp [Memory.read] at this
    | cons d n =>
      obtain ⟨l, e⟩ := d
      obtain ⟨hk, hm'⟩ := List.pairwise_cons.mp hm
      obtain ⟨hl, hn'⟩ := List.pairwise_cons.mp hn
      have low_m : ∀ x, x ≤ k → Memory.read m x = none := fun x hx =>
        read_eq_none fun c hc => by have := hk c hc; simp only at this; omega
      have low_n : ∀ x, x ≤ l → Memory.read n x = none := fun x hx =>
        read_eq_none fun c hc => by have := hl c hc; simp only at this; omega
      have hkl : k = l := by
        rcases Nat.lt_trichotomy k l with hlt | heq | hgt
        · have := h k
          rw [read_cons, read_cons, if_pos rfl, if_neg (by omega), low_n k (by omega)] at this
          simp at this
        · exact heq
        · have := h l
          rw [read_cons, read_cons, if_pos rfl, if_neg (by omega), low_m l (by omega)] at this
          simp at this
      subst hkl
      have hbe : b = e := by
        have := h k
        simpa [read_cons] using this
      subst hbe
      congr 1
      refine ih hm' hn' fun x => ?_
      by_cases hx : k = x
      · subst hx; rw [low_m k (by omega), low_n k (by omega)]
      · have := h x
        simpa [read_cons, hx] using this

end Sys2Proof.Machine
end

