-- ==== Sys2Proof/Laws/State.lean ====
section
/-! SUPPORT. What each update of the state leaves in each field, one lemma a field and update, so that no proof unfolds a
record update. -/

namespace Sys2Proof.Machine

/-! ### clearOutcome -/

@[simp] theorem clearOutcome_cfg (s : State) : (clearOutcome s).cfg = s.cfg := rfl
@[simp] theorem clearOutcome_cmd (s : State) : (clearOutcome s).cmd = s.cmd := rfl
@[simp] theorem clearOutcome_busy (s : State) : (clearOutcome s).busy = s.busy := rfl
@[simp] theorem clearOutcome_done (s : State) : (clearOutcome s).done = false := rfl
@[simp] theorem clearOutcome_err (s : State) : (clearOutcome s).err = false := rfl
@[simp] theorem clearOutcome_cause (s : State) : (clearOutcome s).cause = 0 := rfl
@[simp] theorem clearOutcome_inLen (s : State) : (clearOutcome s).inLen = s.inLen := rfl
@[simp] theorem clearOutcome_outCount (s : State) : (clearOutcome s).outCount = s.outCount := rfl
@[simp] theorem clearOutcome_doneIE (s : State) : (clearOutcome s).doneIE = s.doneIE := rfl
@[simp] theorem clearOutcome_errIE (s : State) : (clearOutcome s).errIE = s.errIE := rfl
@[simp] theorem clearOutcome_doneIP (s : State) : (clearOutcome s).doneIP = s.doneIP := rfl
@[simp] theorem clearOutcome_errIP (s : State) : (clearOutcome s).errIP = s.errIP := rfl
@[simp] theorem clearOutcome_latchOp (s : State) : (clearOutcome s).latchOp = s.latchOp := rfl
@[simp] theorem clearOutcome_latchLen (s : State) : (clearOutcome s).latchLen = s.latchLen := rfl
@[simp] theorem clearOutcome_mem (s : State) : (clearOutcome s).mem = s.mem := rfl
@[simp] theorem clearOutcome_resp (s : State) : (clearOutcome s).resp = s.resp := rfl
@[simp] theorem clearOutcome_schedule (s : State) : (clearOutcome s).schedule = s.schedule := rfl
@[simp] theorem clearOutcome_draws (s : State) : (clearOutcome s).draws = s.draws := rfl

/-! ### flagsOnError -/

@[simp] theorem flagsOnError_cfg (c : CommandError) (s : State) : (flagsOnError c s).cfg = s.cfg := rfl
@[simp] theorem flagsOnError_cmd (c : CommandError) (s : State) : (flagsOnError c s).cmd = s.cmd := rfl
@[simp] theorem flagsOnError_busy (c : CommandError) (s : State) : (flagsOnError c s).busy = s.busy := rfl
@[simp] theorem flagsOnError_done (c : CommandError) (s : State) : (flagsOnError c s).done = s.done := rfl
@[simp] theorem flagsOnError_err (c : CommandError) (s : State) : (flagsOnError c s).err = true := rfl
@[simp] theorem flagsOnError_cause (c : CommandError) (s : State) : (flagsOnError c s).cause = causeCode c := rfl
@[simp] theorem flagsOnError_inLen (c : CommandError) (s : State) : (flagsOnError c s).inLen = s.inLen := rfl
@[simp] theorem flagsOnError_outCount (c : CommandError) (s : State) : (flagsOnError c s).outCount = s.outCount := rfl
@[simp] theorem flagsOnError_doneIE (c : CommandError) (s : State) : (flagsOnError c s).doneIE = s.doneIE := rfl
@[simp] theorem flagsOnError_errIE (c : CommandError) (s : State) : (flagsOnError c s).errIE = s.errIE := rfl
@[simp] theorem flagsOnError_doneIP (c : CommandError) (s : State) : (flagsOnError c s).doneIP = s.doneIP := rfl
@[simp] theorem flagsOnError_errIP (c : CommandError) (s : State) : (flagsOnError c s).errIP = true := rfl
@[simp] theorem flagsOnError_latchOp (c : CommandError) (s : State) : (flagsOnError c s).latchOp = s.latchOp := rfl
@[simp] theorem flagsOnError_latchLen (c : CommandError) (s : State) : (flagsOnError c s).latchLen = s.latchLen := rfl
@[simp] theorem flagsOnError_mem (c : CommandError) (s : State) : (flagsOnError c s).mem = s.mem := rfl
@[simp] theorem flagsOnError_resp (c : CommandError) (s : State) : (flagsOnError c s).resp = s.resp := rfl
@[simp] theorem flagsOnError_schedule (c : CommandError) (s : State) : (flagsOnError c s).schedule = s.schedule := rfl
@[simp] theorem flagsOnError_draws (c : CommandError) (s : State) : (flagsOnError c s).draws = s.draws := rfl

/-! ### flagsOnCompletion -/

@[simp] theorem flagsOnCompletion_cfg (s : State) : (flagsOnCompletion s).cfg = s.cfg := rfl
@[simp] theorem flagsOnCompletion_cmd (s : State) : (flagsOnCompletion s).cmd = s.cmd := rfl
@[simp] theorem flagsOnCompletion_busy (s : State) : (flagsOnCompletion s).busy = false := rfl
@[simp] theorem flagsOnCompletion_done (s : State) : (flagsOnCompletion s).done = true := rfl
@[simp] theorem flagsOnCompletion_err (s : State) : (flagsOnCompletion s).err = s.err := rfl
@[simp] theorem flagsOnCompletion_cause (s : State) : (flagsOnCompletion s).cause = s.cause := rfl
@[simp] theorem flagsOnCompletion_inLen (s : State) : (flagsOnCompletion s).inLen = s.inLen := rfl
@[simp] theorem flagsOnCompletion_outCount (s : State) : (flagsOnCompletion s).outCount = s.outCount := rfl
@[simp] theorem flagsOnCompletion_doneIE (s : State) : (flagsOnCompletion s).doneIE = s.doneIE := rfl
@[simp] theorem flagsOnCompletion_errIE (s : State) : (flagsOnCompletion s).errIE = s.errIE := rfl
@[simp] theorem flagsOnCompletion_doneIP (s : State) : (flagsOnCompletion s).doneIP = true := rfl
@[simp] theorem flagsOnCompletion_errIP (s : State) : (flagsOnCompletion s).errIP = s.errIP := rfl
@[simp] theorem flagsOnCompletion_latchOp (s : State) : (flagsOnCompletion s).latchOp = s.latchOp := rfl
@[simp] theorem flagsOnCompletion_latchLen (s : State) : (flagsOnCompletion s).latchLen = s.latchLen := rfl
@[simp] theorem flagsOnCompletion_mem (s : State) : (flagsOnCompletion s).mem = s.mem := rfl
@[simp] theorem flagsOnCompletion_resp (s : State) : (flagsOnCompletion s).resp = s.resp := rfl
@[simp] theorem flagsOnCompletion_schedule (s : State) : (flagsOnCompletion s).schedule = s.schedule := rfl
@[simp] theorem flagsOnCompletion_draws (s : State) : (flagsOnCompletion s).draws = s.draws := rfl

/-! ### writeIrqEn -/

@[simp] theorem writeIrqEn_cfg (v : Word) (s : State) : (writeIrqEn v s).cfg = s.cfg := rfl
@[simp] theorem writeIrqEn_cmd (v : Word) (s : State) : (writeIrqEn v s).cmd = s.cmd := rfl
@[simp] theorem writeIrqEn_busy (v : Word) (s : State) : (writeIrqEn v s).busy = s.busy := rfl
@[simp] theorem writeIrqEn_done (v : Word) (s : State) : (writeIrqEn v s).done = s.done := rfl
@[simp] theorem writeIrqEn_err (v : Word) (s : State) : (writeIrqEn v s).err = s.err := rfl
@[simp] theorem writeIrqEn_cause (v : Word) (s : State) : (writeIrqEn v s).cause = s.cause := rfl
@[simp] theorem writeIrqEn_inLen (v : Word) (s : State) : (writeIrqEn v s).inLen = s.inLen := rfl
@[simp] theorem writeIrqEn_outCount (v : Word) (s : State) : (writeIrqEn v s).outCount = s.outCount := rfl
@[simp] theorem writeIrqEn_doneIE (v : Word) (s : State) : (writeIrqEn v s).doneIE = v.getLsbD 0 := rfl
@[simp] theorem writeIrqEn_errIE (v : Word) (s : State) : (writeIrqEn v s).errIE = v.getLsbD 1 := rfl
@[simp] theorem writeIrqEn_doneIP (v : Word) (s : State) : (writeIrqEn v s).doneIP = s.doneIP := rfl
@[simp] theorem writeIrqEn_errIP (v : Word) (s : State) : (writeIrqEn v s).errIP = s.errIP := rfl
@[simp] theorem writeIrqEn_latchOp (v : Word) (s : State) : (writeIrqEn v s).latchOp = s.latchOp := rfl
@[simp] theorem writeIrqEn_latchLen (v : Word) (s : State) : (writeIrqEn v s).latchLen = s.latchLen := rfl
@[simp] theorem writeIrqEn_mem (v : Word) (s : State) : (writeIrqEn v s).mem = s.mem := rfl
@[simp] theorem writeIrqEn_resp (v : Word) (s : State) : (writeIrqEn v s).resp = s.resp := rfl
@[simp] theorem writeIrqEn_schedule (v : Word) (s : State) : (writeIrqEn v s).schedule = s.schedule := rfl
@[simp] theorem writeIrqEn_draws (v : Word) (s : State) : (writeIrqEn v s).draws = s.draws := rfl

/-! ### acknowledge -/

@[simp] theorem acknowledge_cfg (v : Word) (s : State) : (acknowledge v s).cfg = s.cfg := rfl
@[simp] theorem acknowledge_cmd (v : Word) (s : State) : (acknowledge v s).cmd = s.cmd := rfl
@[simp] theorem acknowledge_busy (v : Word) (s : State) : (acknowledge v s).busy = s.busy := rfl
@[simp] theorem acknowledge_done (v : Word) (s : State) : (acknowledge v s).done = s.done := rfl
@[simp] theorem acknowledge_err (v : Word) (s : State) : (acknowledge v s).err = s.err := rfl
@[simp] theorem acknowledge_cause (v : Word) (s : State) : (acknowledge v s).cause = s.cause := rfl
@[simp] theorem acknowledge_inLen (v : Word) (s : State) : (acknowledge v s).inLen = s.inLen := rfl
@[simp] theorem acknowledge_outCount (v : Word) (s : State) : (acknowledge v s).outCount = s.outCount := rfl
@[simp] theorem acknowledge_doneIE (v : Word) (s : State) : (acknowledge v s).doneIE = s.doneIE := rfl
@[simp] theorem acknowledge_errIE (v : Word) (s : State) : (acknowledge v s).errIE = s.errIE := rfl
@[simp] theorem acknowledge_doneIP (v : Word) (s : State) : (acknowledge v s).doneIP = (s.doneIP && !v.getLsbD 0) := rfl
@[simp] theorem acknowledge_errIP (v : Word) (s : State) : (acknowledge v s).errIP = (s.errIP && !v.getLsbD 1) := rfl
@[simp] theorem acknowledge_latchOp (v : Word) (s : State) : (acknowledge v s).latchOp = s.latchOp := rfl
@[simp] theorem acknowledge_latchLen (v : Word) (s : State) : (acknowledge v s).latchLen = s.latchLen := rfl
@[simp] theorem acknowledge_mem (v : Word) (s : State) : (acknowledge v s).mem = s.mem := rfl
@[simp] theorem acknowledge_resp (v : Word) (s : State) : (acknowledge v s).resp = s.resp := rfl
@[simp] theorem acknowledge_schedule (v : Word) (s : State) : (acknowledge v s).schedule = s.schedule := rfl
@[simp] theorem acknowledge_draws (v : Word) (s : State) : (acknowledge v s).draws = s.draws := rfl

/-! ### memWrite -/

@[simp] theorem memWrite_cfg (a n : Nat) (v : Word) (s : State) : (memWrite a n v s).cfg = s.cfg := rfl
@[simp] theorem memWrite_cmd (a n : Nat) (v : Word) (s : State) : (memWrite a n v s).cmd = s.cmd := rfl
@[simp] theorem memWrite_busy (a n : Nat) (v : Word) (s : State) : (memWrite a n v s).busy = s.busy := rfl
@[simp] theorem memWrite_done (a n : Nat) (v : Word) (s : State) : (memWrite a n v s).done = s.done := rfl
@[simp] theorem memWrite_err (a n : Nat) (v : Word) (s : State) : (memWrite a n v s).err = s.err := rfl
@[simp] theorem memWrite_cause (a n : Nat) (v : Word) (s : State) : (memWrite a n v s).cause = s.cause := rfl
@[simp] theorem memWrite_inLen (a n : Nat) (v : Word) (s : State) : (memWrite a n v s).inLen = s.inLen := rfl
@[simp] theorem memWrite_outCount (a n : Nat) (v : Word) (s : State) : (memWrite a n v s).outCount = s.outCount := rfl
@[simp] theorem memWrite_doneIE (a n : Nat) (v : Word) (s : State) : (memWrite a n v s).doneIE = s.doneIE := rfl
@[simp] theorem memWrite_errIE (a n : Nat) (v : Word) (s : State) : (memWrite a n v s).errIE = s.errIE := rfl
@[simp] theorem memWrite_doneIP (a n : Nat) (v : Word) (s : State) : (memWrite a n v s).doneIP = s.doneIP := rfl
@[simp] theorem memWrite_errIP (a n : Nat) (v : Word) (s : State) : (memWrite a n v s).errIP = s.errIP := rfl
@[simp] theorem memWrite_latchOp (a n : Nat) (v : Word) (s : State) : (memWrite a n v s).latchOp = s.latchOp := rfl
@[simp] theorem memWrite_latchLen (a n : Nat) (v : Word) (s : State) : (memWrite a n v s).latchLen = s.latchLen := rfl
@[simp] theorem memWrite_mem (a n : Nat) (v : Word) (s : State) : (memWrite a n v s).mem = s.mem.store a (bytesOfWord n v) := rfl
@[simp] theorem memWrite_resp (a n : Nat) (v : Word) (s : State) : (memWrite a n v s).resp = s.resp := rfl
@[simp] theorem memWrite_schedule (a n : Nat) (v : Word) (s : State) : (memWrite a n v s).schedule = s.schedule := rfl
@[simp] theorem memWrite_draws (a n : Nat) (v : Word) (s : State) : (memWrite a n v s).draws = s.draws := rfl

/-! ### raiseBusError -/

@[simp] theorem raiseBusError_cfg (d : Dir) (k : BusResponse) (s : State) : (raiseBusError d k s).cfg = s.cfg := by cases d <;> rfl
@[simp] theorem raiseBusError_cmd (d : Dir) (k : BusResponse) (s : State) : (raiseBusError d k s).cmd = s.cmd := by cases d <;> rfl
@[simp] theorem raiseBusError_busy (d : Dir) (k : BusResponse) (s : State) : (raiseBusError d k s).busy = s.busy := by cases d <;> rfl
@[simp] theorem raiseBusError_done (d : Dir) (k : BusResponse) (s : State) : (raiseBusError d k s).done = s.done := by cases d <;> rfl
@[simp] theorem raiseBusError_err (d : Dir) (k : BusResponse) (s : State) : (raiseBusError d k s).err = s.err := by cases d <;> rfl
@[simp] theorem raiseBusError_cause (d : Dir) (k : BusResponse) (s : State) : (raiseBusError d k s).cause = s.cause := by cases d <;> rfl
@[simp] theorem raiseBusError_inLen (d : Dir) (k : BusResponse) (s : State) : (raiseBusError d k s).inLen = s.inLen := by cases d <;> rfl
@[simp] theorem raiseBusError_outCount (d : Dir) (k : BusResponse) (s : State) : (raiseBusError d k s).outCount = s.outCount := by cases d <;> rfl
@[simp] theorem raiseBusError_doneIE (d : Dir) (k : BusResponse) (s : State) : (raiseBusError d k s).doneIE = s.doneIE := by cases d <;> rfl
@[simp] theorem raiseBusError_errIE (d : Dir) (k : BusResponse) (s : State) : (raiseBusError d k s).errIE = s.errIE := by cases d <;> rfl
@[simp] theorem raiseBusError_doneIP (d : Dir) (k : BusResponse) (s : State) : (raiseBusError d k s).doneIP = s.doneIP := by cases d <;> rfl
@[simp] theorem raiseBusError_errIP (d : Dir) (k : BusResponse) (s : State) : (raiseBusError d k s).errIP = s.errIP := by cases d <;> rfl
@[simp] theorem raiseBusError_latchOp (d : Dir) (k : BusResponse) (s : State) : (raiseBusError d k s).latchOp = s.latchOp := by cases d <;> rfl
@[simp] theorem raiseBusError_latchLen (d : Dir) (k : BusResponse) (s : State) : (raiseBusError d k s).latchLen = s.latchLen := by cases d <;> rfl
@[simp] theorem raiseBusError_mem (d : Dir) (k : BusResponse) (s : State) : (raiseBusError d k s).mem = s.mem := by cases d <;> rfl
@[simp] theorem raiseBusError_schedule (d : Dir) (k : BusResponse) (s : State) : (raiseBusError d k s).schedule = s.schedule := by cases d <;> rfl
@[simp] theorem raiseBusError_draws (d : Dir) (k : BusResponse) (s : State) : (raiseBusError d k s).draws = s.draws := by cases d <;> rfl

/-! ### answerRead -/

@[simp] theorem answerRead_cfg (r : Region) (a n : Nat) (s : State) : (answerRead r a n s).cfg = s.cfg := rfl
@[simp] theorem answerRead_cmd (r : Region) (a n : Nat) (s : State) : (answerRead r a n s).cmd = s.cmd := rfl
@[simp] theorem answerRead_busy (r : Region) (a n : Nat) (s : State) : (answerRead r a n s).busy = s.busy := rfl
@[simp] theorem answerRead_done (r : Region) (a n : Nat) (s : State) : (answerRead r a n s).done = s.done := rfl
@[simp] theorem answerRead_err (r : Region) (a n : Nat) (s : State) : (answerRead r a n s).err = s.err := rfl
@[simp] theorem answerRead_cause (r : Region) (a n : Nat) (s : State) : (answerRead r a n s).cause = s.cause := rfl
@[simp] theorem answerRead_inLen (r : Region) (a n : Nat) (s : State) : (answerRead r a n s).inLen = s.inLen := rfl
@[simp] theorem answerRead_outCount (r : Region) (a n : Nat) (s : State) : (answerRead r a n s).outCount = s.outCount := rfl
@[simp] theorem answerRead_doneIE (r : Region) (a n : Nat) (s : State) : (answerRead r a n s).doneIE = s.doneIE := rfl
@[simp] theorem answerRead_errIE (r : Region) (a n : Nat) (s : State) : (answerRead r a n s).errIE = s.errIE := rfl
@[simp] theorem answerRead_doneIP (r : Region) (a n : Nat) (s : State) : (answerRead r a n s).doneIP = s.doneIP := rfl
@[simp] theorem answerRead_errIP (r : Region) (a n : Nat) (s : State) : (answerRead r a n s).errIP = s.errIP := rfl
@[simp] theorem answerRead_latchOp (r : Region) (a n : Nat) (s : State) : (answerRead r a n s).latchOp = s.latchOp := rfl
@[simp] theorem answerRead_latchLen (r : Region) (a n : Nat) (s : State) : (answerRead r a n s).latchLen = s.latchLen := rfl
@[simp] theorem answerRead_mem (r : Region) (a n : Nat) (s : State) : (answerRead r a n s).mem = s.mem := rfl
@[simp] theorem answerRead_resp (r : Region) (a n : Nat) (s : State) : (answerRead r a n s).resp = some ⟨.okay, some (memRead s r a n)⟩ := rfl
@[simp] theorem answerRead_schedule (r : Region) (a n : Nat) (s : State) : (answerRead r a n s).schedule = s.schedule := rfl
@[simp] theorem answerRead_draws (r : Region) (a n : Nat) (s : State) : (answerRead r a n s).draws = s.draws := rfl

/-! ### answerWrite -/

@[simp] theorem answerWrite_cfg (s : State) : (answerWrite s).cfg = s.cfg := rfl
@[simp] theorem answerWrite_cmd (s : State) : (answerWrite s).cmd = s.cmd := rfl
@[simp] theorem answerWrite_busy (s : State) : (answerWrite s).busy = s.busy := rfl
@[simp] theorem answerWrite_done (s : State) : (answerWrite s).done = s.done := rfl
@[simp] theorem answerWrite_err (s : State) : (answerWrite s).err = s.err := rfl
@[simp] theorem answerWrite_cause (s : State) : (answerWrite s).cause = s.cause := rfl
@[simp] theorem answerWrite_inLen (s : State) : (answerWrite s).inLen = s.inLen := rfl
@[simp] theorem answerWrite_outCount (s : State) : (answerWrite s).outCount = s.outCount := rfl
@[simp] theorem answerWrite_doneIE (s : State) : (answerWrite s).doneIE = s.doneIE := rfl
@[simp] theorem answerWrite_errIE (s : State) : (answerWrite s).errIE = s.errIE := rfl
@[simp] theorem answerWrite_doneIP (s : State) : (answerWrite s).doneIP = s.doneIP := rfl
@[simp] theorem answerWrite_errIP (s : State) : (answerWrite s).errIP = s.errIP := rfl
@[simp] theorem answerWrite_latchOp (s : State) : (answerWrite s).latchOp = s.latchOp := rfl
@[simp] theorem answerWrite_latchLen (s : State) : (answerWrite s).latchLen = s.latchLen := rfl
@[simp] theorem answerWrite_mem (s : State) : (answerWrite s).mem = s.mem := rfl
@[simp] theorem answerWrite_resp (s : State) : (answerWrite s).resp = some ⟨.okay, none⟩ := rfl
@[simp] theorem answerWrite_schedule (s : State) : (answerWrite s).schedule = s.schedule := rfl
@[simp] theorem answerWrite_draws (s : State) : (answerWrite s).draws = s.draws := rfl

/-! ### acceptCommand -/

@[simp] theorem acceptCommand_cfg (w : Word) (s : State) : (acceptCommand w s).cfg = s.cfg := rfl
@[simp] theorem acceptCommand_cmd (w : Word) (s : State) : (acceptCommand w s).cmd = w := rfl
@[simp] theorem acceptCommand_busy (w : Word) (s : State) : (acceptCommand w s).busy = s.busy := rfl
@[simp] theorem acceptCommand_done (w : Word) (s : State) : (acceptCommand w s).done = false := rfl
@[simp] theorem acceptCommand_err (w : Word) (s : State) : (acceptCommand w s).err = false := rfl
@[simp] theorem acceptCommand_cause (w : Word) (s : State) : (acceptCommand w s).cause = 0 := rfl
@[simp] theorem acceptCommand_inLen (w : Word) (s : State) : (acceptCommand w s).inLen = s.inLen := rfl
@[simp] theorem acceptCommand_outCount (w : Word) (s : State) : (acceptCommand w s).outCount = s.outCount := rfl
@[simp] theorem acceptCommand_doneIE (w : Word) (s : State) : (acceptCommand w s).doneIE = s.doneIE := rfl
@[simp] theorem acceptCommand_errIE (w : Word) (s : State) : (acceptCommand w s).errIE = s.errIE := rfl
@[simp] theorem acceptCommand_doneIP (w : Word) (s : State) : (acceptCommand w s).doneIP = s.doneIP := rfl
@[simp] theorem acceptCommand_errIP (w : Word) (s : State) : (acceptCommand w s).errIP = s.errIP := rfl
@[simp] theorem acceptCommand_latchOp (w : Word) (s : State) : (acceptCommand w s).latchOp = s.latchOp := rfl
@[simp] theorem acceptCommand_latchLen (w : Word) (s : State) : (acceptCommand w s).latchLen = s.latchLen := rfl
@[simp] theorem acceptCommand_mem (w : Word) (s : State) : (acceptCommand w s).mem = s.mem := rfl
@[simp] theorem acceptCommand_resp (w : Word) (s : State) : (acceptCommand w s).resp = s.resp := rfl
@[simp] theorem acceptCommand_schedule (w : Word) (s : State) : (acceptCommand w s).schedule = s.schedule := rfl
@[simp] theorem acceptCommand_draws (w : Word) (s : State) : (acceptCommand w s).draws = s.draws := rfl

/-! ### raiseCommandError -/

@[simp] theorem raiseCommandError_cfg (c : CommandError) (s : State) : (raiseCommandError c s).cfg = s.cfg := rfl
@[simp] theorem raiseCommandError_cmd (c : CommandError) (s : State) : (raiseCommandError c s).cmd = s.cmd := rfl
@[simp] theorem raiseCommandError_busy (c : CommandError) (s : State) : (raiseCommandError c s).busy = s.busy := rfl
@[simp] theorem raiseCommandError_done (c : CommandError) (s : State) : (raiseCommandError c s).done = s.done := rfl
@[simp] theorem raiseCommandError_err (c : CommandError) (s : State) : (raiseCommandError c s).err = true := rfl
@[simp] theorem raiseCommandError_cause (c : CommandError) (s : State) : (raiseCommandError c s).cause = causeCode c := rfl
@[simp] theorem raiseCommandError_inLen (c : CommandError) (s : State) : (raiseCommandError c s).inLen = s.inLen := rfl
@[simp] theorem raiseCommandError_outCount (c : CommandError) (s : State) : (raiseCommandError c s).outCount = 0 := rfl
@[simp] theorem raiseCommandError_doneIE (c : CommandError) (s : State) : (raiseCommandError c s).doneIE = s.doneIE := rfl
@[simp] theorem raiseCommandError_errIE (c : CommandError) (s : State) : (raiseCommandError c s).errIE = s.errIE := rfl
@[simp] theorem raiseCommandError_doneIP (c : CommandError) (s : State) : (raiseCommandError c s).doneIP = s.doneIP := rfl
@[simp] theorem raiseCommandError_errIP (c : CommandError) (s : State) : (raiseCommandError c s).errIP = true := rfl
@[simp] theorem raiseCommandError_latchOp (c : CommandError) (s : State) : (raiseCommandError c s).latchOp = s.latchOp := rfl
@[simp] theorem raiseCommandError_latchLen (c : CommandError) (s : State) : (raiseCommandError c s).latchLen = s.latchLen := rfl
@[simp] theorem raiseCommandError_mem (c : CommandError) (s : State) : (raiseCommandError c s).mem = s.mem := rfl
@[simp] theorem raiseCommandError_resp (c : CommandError) (s : State) : (raiseCommandError c s).resp = s.resp := rfl
@[simp] theorem raiseCommandError_schedule (c : CommandError) (s : State) : (raiseCommandError c s).schedule = s.schedule := rfl
@[simp] theorem raiseCommandError_draws (c : CommandError) (s : State) : (raiseCommandError c s).draws = s.draws := rfl

/-! ### writeInLen -/

@[simp] theorem writeInLen_cfg (v : Word) (s : State) : (writeInLen v s).cfg = s.cfg := rfl
@[simp] theorem writeInLen_cmd (v : Word) (s : State) : (writeInLen v s).cmd = s.cmd := rfl
@[simp] theorem writeInLen_busy (v : Word) (s : State) : (writeInLen v s).busy = s.busy := rfl
@[simp] theorem writeInLen_done (v : Word) (s : State) : (writeInLen v s).done = s.done := rfl
@[simp] theorem writeInLen_err (v : Word) (s : State) : (writeInLen v s).err = s.err := rfl
@[simp] theorem writeInLen_cause (v : Word) (s : State) : (writeInLen v s).cause = s.cause := rfl
@[simp] theorem writeInLen_inLen (v : Word) (s : State) : (writeInLen v s).inLen = v.setWidth 17 := rfl
@[simp] theorem writeInLen_outCount (v : Word) (s : State) : (writeInLen v s).outCount = s.outCount := rfl
@[simp] theorem writeInLen_doneIE (v : Word) (s : State) : (writeInLen v s).doneIE = s.doneIE := rfl
@[simp] theorem writeInLen_errIE (v : Word) (s : State) : (writeInLen v s).errIE = s.errIE := rfl
@[simp] theorem writeInLen_doneIP (v : Word) (s : State) : (writeInLen v s).doneIP = s.doneIP := rfl
@[simp] theorem writeInLen_errIP (v : Word) (s : State) : (writeInLen v s).errIP = s.errIP := rfl
@[simp] theorem writeInLen_latchOp (v : Word) (s : State) : (writeInLen v s).latchOp = s.latchOp := rfl
@[simp] theorem writeInLen_latchLen (v : Word) (s : State) : (writeInLen v s).latchLen = s.latchLen := rfl
@[simp] theorem writeInLen_mem (v : Word) (s : State) : (writeInLen v s).mem = s.mem := rfl
@[simp] theorem writeInLen_resp (v : Word) (s : State) : (writeInLen v s).resp = s.resp := rfl
@[simp] theorem writeInLen_schedule (v : Word) (s : State) : (writeInLen v s).schedule = s.schedule := rfl
@[simp] theorem writeInLen_draws (v : Word) (s : State) : (writeInLen v s).draws = s.draws := rfl

/-! ### writeResult -/

@[simp] theorem writeResult_cfg (r : List Byte) (s : State) : (writeResult r s).cfg = s.cfg := rfl
@[simp] theorem writeResult_cmd (r : List Byte) (s : State) : (writeResult r s).cmd = s.cmd := rfl
@[simp] theorem writeResult_busy (r : List Byte) (s : State) : (writeResult r s).busy = s.busy := rfl
@[simp] theorem writeResult_done (r : List Byte) (s : State) : (writeResult r s).done = s.done := rfl
@[simp] theorem writeResult_err (r : List Byte) (s : State) : (writeResult r s).err = s.err := rfl
@[simp] theorem writeResult_cause (r : List Byte) (s : State) : (writeResult r s).cause = s.cause := rfl
@[simp] theorem writeResult_inLen (r : List Byte) (s : State) : (writeResult r s).inLen = s.inLen := rfl
@[simp] theorem writeResult_outCount (r : List Byte) (s : State) : (writeResult r s).outCount = BitVec.ofNat 17 r.length := rfl
@[simp] theorem writeResult_doneIE (r : List Byte) (s : State) : (writeResult r s).doneIE = s.doneIE := rfl
@[simp] theorem writeResult_errIE (r : List Byte) (s : State) : (writeResult r s).errIE = s.errIE := rfl
@[simp] theorem writeResult_doneIP (r : List Byte) (s : State) : (writeResult r s).doneIP = s.doneIP := rfl
@[simp] theorem writeResult_errIP (r : List Byte) (s : State) : (writeResult r s).errIP = s.errIP := rfl
@[simp] theorem writeResult_latchOp (r : List Byte) (s : State) : (writeResult r s).latchOp = s.latchOp := rfl
@[simp] theorem writeResult_latchLen (r : List Byte) (s : State) : (writeResult r s).latchLen = s.latchLen := rfl
@[simp] theorem writeResult_mem (r : List Byte) (s : State) : (writeResult r s).mem = s.mem.store outBufBase r := rfl
@[simp] theorem writeResult_resp (r : List Byte) (s : State) : (writeResult r s).resp = s.resp := rfl
@[simp] theorem writeResult_schedule (r : List Byte) (s : State) : (writeResult r s).schedule = s.schedule := rfl
@[simp] theorem writeResult_draws (r : List Byte) (s : State) : (writeResult r s).draws = s.draws := rfl

/-! ### completeCommand -/

@[simp] theorem completeCommand_cfg (r : List Byte) (s : State) : (completeCommand r s).cfg = s.cfg := rfl
@[simp] theorem completeCommand_cmd (r : List Byte) (s : State) : (completeCommand r s).cmd = s.cmd := rfl
@[simp] theorem completeCommand_busy (r : List Byte) (s : State) : (completeCommand r s).busy = false := rfl
@[simp] theorem completeCommand_done (r : List Byte) (s : State) : (completeCommand r s).done = true := rfl
@[simp] theorem completeCommand_err (r : List Byte) (s : State) : (completeCommand r s).err = s.err := rfl
@[simp] theorem completeCommand_cause (r : List Byte) (s : State) : (completeCommand r s).cause = s.cause := rfl
@[simp] theorem completeCommand_inLen (r : List Byte) (s : State) : (completeCommand r s).inLen = s.inLen := rfl
@[simp] theorem completeCommand_outCount (r : List Byte) (s : State) : (completeCommand r s).outCount = BitVec.ofNat 17 r.length := rfl
@[simp] theorem completeCommand_doneIE (r : List Byte) (s : State) : (completeCommand r s).doneIE = s.doneIE := rfl
@[simp] theorem completeCommand_errIE (r : List Byte) (s : State) : (completeCommand r s).errIE = s.errIE := rfl
@[simp] theorem completeCommand_doneIP (r : List Byte) (s : State) : (completeCommand r s).doneIP = true := rfl
@[simp] theorem completeCommand_errIP (r : List Byte) (s : State) : (completeCommand r s).errIP = s.errIP := rfl
@[simp] theorem completeCommand_latchOp (r : List Byte) (s : State) : (completeCommand r s).latchOp = s.latchOp := rfl
@[simp] theorem completeCommand_latchLen (r : List Byte) (s : State) : (completeCommand r s).latchLen = s.latchLen := rfl
@[simp] theorem completeCommand_mem (r : List Byte) (s : State) : (completeCommand r s).mem = s.mem.store outBufBase r := rfl
@[simp] theorem completeCommand_resp (r : List Byte) (s : State) : (completeCommand r s).resp = s.resp := rfl
@[simp] theorem completeCommand_schedule (r : List Byte) (s : State) : (completeCommand r s).schedule = s.schedule := rfl
@[simp] theorem completeCommand_draws (r : List Byte) (s : State) : (completeCommand r s).draws = s.draws := rfl

/-! ### resetStep -/

@[simp] theorem resetStep_cfg (s : State) : (resetStep s).cfg = s.cfg := rfl
@[simp] theorem resetStep_cmd (s : State) : (resetStep s).cmd = 0 := rfl
@[simp] theorem resetStep_busy (s : State) : (resetStep s).busy = false := rfl
@[simp] theorem resetStep_done (s : State) : (resetStep s).done = false := rfl
@[simp] theorem resetStep_err (s : State) : (resetStep s).err = false := rfl
@[simp] theorem resetStep_cause (s : State) : (resetStep s).cause = 0 := rfl
@[simp] theorem resetStep_inLen (s : State) : (resetStep s).inLen = 0 := rfl
@[simp] theorem resetStep_outCount (s : State) : (resetStep s).outCount = 0 := rfl
@[simp] theorem resetStep_doneIE (s : State) : (resetStep s).doneIE = false := rfl
@[simp] theorem resetStep_errIE (s : State) : (resetStep s).errIE = false := rfl
@[simp] theorem resetStep_doneIP (s : State) : (resetStep s).doneIP = false := rfl
@[simp] theorem resetStep_errIP (s : State) : (resetStep s).errIP = false := rfl
@[simp] theorem resetStep_latchOp (s : State) : (resetStep s).latchOp = 0 := rfl
@[simp] theorem resetStep_latchLen (s : State) : (resetStep s).latchLen = 0 := rfl
@[simp] theorem resetStep_mem (s : State) : (resetStep s).mem = [] := rfl
@[simp] theorem resetStep_resp (s : State) : (resetStep s).resp = none := rfl
@[simp] theorem resetStep_schedule (s : State) : (resetStep s).schedule = s.schedule := rfl
@[simp] theorem resetStep_draws (s : State) : (resetStep s).draws = s.draws := rfl

/-! ### beginStep -/

@[simp] theorem beginStep_cfg (l : List Event) (s : State) : (beginStep l s).cfg = s.cfg := rfl
@[simp] theorem beginStep_cmd (l : List Event) (s : State) : (beginStep l s).cmd = s.cmd := rfl
@[simp] theorem beginStep_busy (l : List Event) (s : State) : (beginStep l s).busy = s.busy := rfl
@[simp] theorem beginStep_done (l : List Event) (s : State) : (beginStep l s).done = s.done := rfl
@[simp] theorem beginStep_err (l : List Event) (s : State) : (beginStep l s).err = s.err := rfl
@[simp] theorem beginStep_cause (l : List Event) (s : State) : (beginStep l s).cause = s.cause := rfl
@[simp] theorem beginStep_inLen (l : List Event) (s : State) : (beginStep l s).inLen = s.inLen := rfl
@[simp] theorem beginStep_outCount (l : List Event) (s : State) : (beginStep l s).outCount = s.outCount := rfl
@[simp] theorem beginStep_doneIE (l : List Event) (s : State) : (beginStep l s).doneIE = s.doneIE := rfl
@[simp] theorem beginStep_errIE (l : List Event) (s : State) : (beginStep l s).errIE = s.errIE := rfl
@[simp] theorem beginStep_doneIP (l : List Event) (s : State) : (beginStep l s).doneIP = s.doneIP := rfl
@[simp] theorem beginStep_errIP (l : List Event) (s : State) : (beginStep l s).errIP = s.errIP := rfl
@[simp] theorem beginStep_latchOp (l : List Event) (s : State) : (beginStep l s).latchOp = s.latchOp := rfl
@[simp] theorem beginStep_latchLen (l : List Event) (s : State) : (beginStep l s).latchLen = s.latchLen := rfl
@[simp] theorem beginStep_mem (l : List Event) (s : State) : (beginStep l s).mem = s.mem := rfl
@[simp] theorem beginStep_resp (l : List Event) (s : State) : (beginStep l s).resp = none := rfl
@[simp] theorem beginStep_schedule (l : List Event) (s : State) : (beginStep l s).schedule = l := rfl
@[simp] theorem beginStep_draws (l : List Event) (s : State) : (beginStep l s).draws = s.draws + 1 := rfl

/-! ### placeCommand -/

@[simp] theorem placeCommand_cfg (w : Word) (s : State) : (placeCommand w s).cfg = s.cfg := rfl
@[simp] theorem placeCommand_cmd (w : Word) (s : State) : (placeCommand w s).cmd = s.cmd := rfl
@[simp] theorem placeCommand_busy (w : Word) (s : State) : (placeCommand w s).busy = false := rfl
@[simp] theorem placeCommand_done (w : Word) (s : State) : (placeCommand w s).done = s.done := rfl
@[simp] theorem placeCommand_err (w : Word) (s : State) : (placeCommand w s).err = s.err := rfl
@[simp] theorem placeCommand_cause (w : Word) (s : State) : (placeCommand w s).cause = s.cause := rfl
@[simp] theorem placeCommand_inLen (w : Word) (s : State) : (placeCommand w s).inLen = s.inLen := rfl
@[simp] theorem placeCommand_outCount (w : Word) (s : State) : (placeCommand w s).outCount = s.outCount := rfl
@[simp] theorem placeCommand_doneIE (w : Word) (s : State) : (placeCommand w s).doneIE = s.doneIE := rfl
@[simp] theorem placeCommand_errIE (w : Word) (s : State) : (placeCommand w s).errIE = s.errIE := rfl
@[simp] theorem placeCommand_doneIP (w : Word) (s : State) : (placeCommand w s).doneIP = s.doneIP := rfl
@[simp] theorem placeCommand_errIP (w : Word) (s : State) : (placeCommand w s).errIP = s.errIP := rfl
@[simp] theorem placeCommand_latchOp (w : Word) (s : State) : (placeCommand w s).latchOp = s.latchOp := rfl
@[simp] theorem placeCommand_latchLen (w : Word) (s : State) : (placeCommand w s).latchLen = s.latchLen := rfl
@[simp] theorem placeCommand_mem (w : Word) (s : State) : (placeCommand w s).mem = s.mem := rfl
@[simp] theorem placeCommand_resp (w : Word) (s : State) : (placeCommand w s).resp = s.resp := rfl
@[simp] theorem placeCommand_schedule (w : Word) (s : State) : (placeCommand w s).schedule = .transaction (.wr .four 0x00000 w) :: s.schedule := rfl
@[simp] theorem placeCommand_draws (w : Word) (s : State) : (placeCommand w s).draws = s.draws := rfl

/-! ### startCommand: what it leaves as it was, started or refused -/

@[simp] theorem startCommand_cfg (op : BitVec 3) (s : State) : (startCommand op s).cfg = s.cfg := by
  unfold startCommand; split <;> rfl

@[simp] theorem startCommand_cmd (op : BitVec 3) (s : State) : (startCommand op s).cmd = s.cmd := by
  unfold startCommand; split <;> rfl

@[simp] theorem startCommand_done (op : BitVec 3) (s : State) : (startCommand op s).done = s.done := by
  unfold startCommand; split <;> rfl

@[simp] theorem startCommand_inLen (op : BitVec 3) (s : State) : (startCommand op s).inLen = s.inLen := by
  unfold startCommand; split <;> rfl

@[simp] theorem startCommand_doneIE (op : BitVec 3) (s : State) : (startCommand op s).doneIE = s.doneIE := by
  unfold startCommand; split <;> rfl

@[simp] theorem startCommand_errIE (op : BitVec 3) (s : State) : (startCommand op s).errIE = s.errIE := by
  unfold startCommand; split <;> rfl

@[simp] theorem startCommand_doneIP (op : BitVec 3) (s : State) : (startCommand op s).doneIP = s.doneIP := by
  unfold startCommand; split <;> rfl

@[simp] theorem startCommand_mem (op : BitVec 3) (s : State) : (startCommand op s).mem = s.mem := by
  unfold startCommand; split <;> rfl

@[simp] theorem startCommand_resp (op : BitVec 3) (s : State) : (startCommand op s).resp = s.resp := by
  unfold startCommand; split <;> rfl

@[simp] theorem startCommand_schedule (op : BitVec 3) (s : State) : (startCommand op s).schedule = s.schedule := by
  unfold startCommand; split <;> rfl

@[simp] theorem startCommand_draws (op : BitVec 3) (s : State) : (startCommand op s).draws = s.draws := by
  unfold startCommand; split <;> rfl

/-! ### The response of a refused transaction -/

@[simp] theorem raiseBusError_resp_read (k : BusResponse) (s : State) :
    (raiseBusError .read k s).resp = some ⟨k, some 0⟩ := rfl

@[simp] theorem raiseBusError_resp_write (k : BusResponse) (s : State) :
    (raiseBusError .write k s).resp = some ⟨k, none⟩ := rfl

end Sys2Proof.Machine
end

