-- ==== Sys2Proof/Laws/Ops.lean ====
section
/-! SUPPORT. What the shared operations can do: the region of a transaction, what a passed check says, the start and the
completion of a command. -/

namespace Sys2Proof.Machine

/-! ### Regions and checks -/

/-- A transaction's region is one of the map's rows and holds all its bytes (20_memory.md R33). -/
theorem regionOf_some {p : Config.Params} {a n : Nat} {r : Region} (h : regionOf p a n = some r) :
    ∃ w ∈ addressMap p, w.region = r ∧ w.base ≤ a ∧ a + n ≤ w.base + w.size := by
  simp only [regionOf, Option.map_eq_some_iff] at h
  obtain ⟨w, hw, rfl⟩ := h
  have := List.find?_some hw
  simp only [Window.holds, Bool.and_eq_true, decide_eq_true_eq] at this
  exact ⟨w, List.mem_of_find?_eq_some hw, rfl, this.1, this.2⟩

/-- The bounds of the register region. -/
theorem regionOf_registers {p : Config.Params} {a n : Nat} (h : regionOf p a n = some .registers) : a + n ≤ 0x1C := by
  obtain ⟨w, hw, hr, -, ha⟩ := regionOf_some h
  simp only [addressMap, List.mem_cons, List.not_mem_nil, or_false] at hw
  rcases hw with rfl | rfl | rfl | rfl | rfl | rfl | rfl <;> simp_all

/-- A transaction inside the register region. -/
theorem regionOf_of_le {p : Config.Params} {a n : Nat} (h : a + n ≤ 0x1C) : regionOf p a n = some .registers := by
  simp [regionOf, addressMap, Window.holds, h]

/-- The bounds of the IN_BUF window (R37). -/
theorem regionOf_inBuf {p : Config.Params} {a n : Nat} (h : regionOf p a n = some .inBuf) :
    inBufBase ≤ a ∧ a + n ≤ inBufBase + p.inCap := by
  obtain ⟨w, hw, hr, h1, h2⟩ := regionOf_some h
  simp only [addressMap, List.mem_cons, List.not_mem_nil, or_false] at hw
  rcases hw with rfl | rfl | rfl | rfl | rfl | rfl | rfl <;> simp_all

/-- What a passed check says (44_host_access.md R107). -/
theorem busCheck_pass {s : State} {d : Dir} {a n : Nat} {r : Region} (h : busCheck s d a n = .pass r) :
    regionOf s.cfg a n = some r ∧ sizeAligned r a n = true ∧ interlocked s d r a = false := by
  unfold busCheck at h
  split at h
  · simp at h
  · rename_i r' hr
    split at h
    · simp at h
    · split at h
      · simp at h
      · rename_i h1 h2
        simp only [CheckResult.pass.injEq] at h
        subst h
        simp_all

/-- The bounds of IN_CAP that a legal configuration gives (00_scope.md R8). -/
theorem legal_bounds {p : Config.Params} (h : p.legal = true) : 1 ≤ p.inCap ∧ p.inCap ≤ 49152 := by
  simpa [Config.Params.legal] using h

/-- The one register at an aligned offset (10_state.md R18). -/
theorem registerAt_cmd {a : Nat} (h : a % 4 = 0) : registerAt a = .cmd ↔ a = 0 := by
  unfold registerAt
  constructor
  · intro h'
    by_cases h0 : a < 4
    · omega
    · rw [if_neg h0] at h'
      repeat' (split at h')
      all_goals simp at h'
  · rintro rfl; rfl

/-- A buffer byte written since reset is the byte written (20_memory.md R37, R38). -/
theorem bufferByte_of_read {s : State} {a : Nat} {b : Byte} (h : s.mem.read a = some b) : bufferByte s a = b := by
  simp [bufferByte, h]

/-! ### The operand -/

@[simp] theorem length_operand (s : State) : (operand s).length = s.latchLen.toNat := by simp [operand]

/-- Two states whose length latch, draw counter and IN_BUF agree have the same operand. -/
theorem operand_congr {s t : State} (hl : t.latchLen = s.latchLen) (hd : t.draws = s.draws)
    (hm : ∀ k < s.latchLen.toNat, t.mem.read (inBufBase + k) = s.mem.read (inBufBase + k)) :
    operand t = operand s := by
  simp only [operand, hl, bufferByte, hd]
  refine List.map_congr_left fun k hk => ?_
  rw [hm k (List.mem_range.mp hk)]

/-- When every byte of the operand has been written, the operand is those bytes. -/
theorem operand_eq {s : State} {l : List Byte} (hl : s.latchLen.toNat = l.length)
    (hm : ∀ k (h : k < l.length), s.mem.read (inBufBase + k) = some l[k]) : operand s = l := by
  apply List.ext_getElem (by simp [hl])
  intro k h h'
  simp [operand, bufferByte, hm k h']

/-! ### Start and completion -/

/-- Starting a command takes the latches and raises BUSY, or raises LEN_RANGE (41_command.md R72). -/
theorem startCommand_cases (op : BitVec 3) (s : State) :
    (s.inLen.toNat ≤ s.cfg.inCap ∧
      startCommand op s = { s with latchOp := op, latchLen := s.inLen, busy := true }) ∨
    (s.cfg.inCap < s.inLen.toNat ∧ startCommand op s = raiseCommandError .lenRange s) := by
  unfold startCommand
  split
  · exact .inr ⟨by assumption, rfl⟩
  · exact .inl ⟨by omega, rfl⟩

/-- Every command's meaning in one equation, over the result table of R75. -/
theorem exec_eq (i : Instr) (s : State) :
    exec i s = .next (if s.busy then completeCommand (commandResult i s.cfg.substB1 (operand s)) s
      else startCommand (opcode i) s) := by
  cases i <;> rfl

/-- On a BUSY engine a command completes (R74). -/
theorem exec_busy (i : Instr) {s : State} (h : s.busy = true) :
    exec i s = .next (completeCommand (commandResult i s.cfg.substB1 (operand s)) s) := by
  rw [exec_eq, h]; rfl

/-- On an idle engine a command starts (R72). -/
theorem exec_idle (i : Instr) {s : State} (h : s.busy = false) : exec i s = .next (startCommand (opcode i) s) := by
  rw [exec_eq, h]; rfl

end Sys2Proof.Machine
end

