-- ==== Sys2Proof/Laws/PerInstr.lean ====
section
/-! SUPPORT. Laws of every instruction as syntax, one lemma per constructor. -/

namespace Sys2Proof.Laws

/-- The fields of the instruction's word are its fields, and they are well formed (30_encoding.md R52, R54). -/
def EncodingWellFormed.Statement (i : Instr) : Prop := fieldsOfWord (encode i) = i.fields ∧ i.wellFormed = true

theorem EncodingWellFormed.encStd : EncodingWellFormed.Statement .encStd := ⟨fieldsOfWord_wordOfFields _, rfl⟩

theorem EncodingWellFormed.encUrl : EncodingWellFormed.Statement .encUrl := ⟨fieldsOfWord_wordOfFields _, rfl⟩

theorem EncodingWellFormed.decStd : EncodingWellFormed.Statement .decStd := ⟨fieldsOfWord_wordOfFields _, rfl⟩

theorem EncodingWellFormed.decUrl : EncodingWellFormed.Statement .decUrl := ⟨fieldsOfWord_wordOfFields _, rfl⟩

theorem EncodingWellFormed.decStdWs : EncodingWellFormed.Statement .decStdWs := ⟨fieldsOfWord_wordOfFields _, rfl⟩

theorem EncodingWellFormed.decUrlWs : EncodingWellFormed.Statement .decUrlWs := ⟨fieldsOfWord_wordOfFields _, rfl⟩

end Sys2Proof.Laws
end

