-- ==== Sys2Proof/Laws/Step.lean ====
section
/-! SUPPORT. What a step can do, said once: inversion lemmas for a transaction, for the engine's step and for the step. -/

namespace Sys2Proof.Machine

/-- What a transaction that answers a next state has done (44_host_access.md R107 to R110). -/
inductive TransactOutcome (t : Transaction) (s : State) : State → Prop where
  | refused (k : BusResponse) (h : busCheck s t.dir t.off.toNat t.size.bytes = .busError k) :
      TransactOutcome t s (raiseBusError t.dir k s)
  | answered (r : Region) (hd : t.dir = .read) (h : busCheck s .read t.off.toNat t.size.bytes = .pass r) :
      TransactOutcome t s (answerRead r t.off.toNat t.size.bytes s)
  | illegal (w : Word) (hd : t = .wr .four 0x00000 w) (hb : s.busy = false) (r : DecodeReject)
      (h : decodeWord w = .reject r) :
      TransactOutcome t s (raiseCommandError .illegalCmd (acceptCommand w (answerWrite s)))
  | issued (w : Word) (hd : t = .wr .four 0x00000 w) (hb : s.busy = false) (i : Instr)
      (h : decodeWord w = .command i) :
      TransactOutcome t s (startCommand (opcode i) (acceptCommand w (answerWrite s)))
  | wroteInLen (v : Word) (hd : t = .wr .four 0x00008 v) (hb : s.busy = false) :
      TransactOutcome t s (writeInLen v (answerWrite s))
  | wroteIrqEn (v : Word) (hd : t = .wr .four 0x00010 v) : TransactOutcome t s (writeIrqEn v (answerWrite s))
  | wroteIrqPend (v : Word) (hd : t = .wr .four 0x00014 v) : TransactOutcome t s (acknowledge v (answerWrite s))
  | wroteInBuf (hd : t.dir = .write) (hb : s.busy = false) (h1 : inBufBase ≤ t.off.toNat)
      (h2 : t.off.toNat + t.size.bytes ≤ inBufBase + s.cfg.inCap) :
      TransactOutcome t s (memWrite t.off.toNat t.size.bytes t.data (answerWrite s))
  | ignored (hd : t.dir = .write) : TransactOutcome t s (answerWrite s)

/-- An aligned register write is one of seven transactions (20_memory.md R41). -/
theorem register_write {t : Transaction} {p : Config.Params} (hd : t.dir = .write)
    (hr : regionOf p t.off.toNat t.size.bytes = some .registers)
    (ha : sizeAligned .registers t.off.toNat t.size.bytes = true) :
    t = .wr .four t.off t.data ∧ t.off.toNat % 4 = 0 ∧ t.off.toNat ≤ 0x18 := by
  obtain ⟨d, z, o, v⟩ := t
  simp only [sizeAligned, Bool.and_eq_true, decide_eq_true_eq] at ha
  have h4 : z = .four := by
    cases z <;> simp [Size.bytes] at ha ⊢
  subst h4
  simp only at hd
  subst hd
  have := regionOf_registers hr
  simp only [Size.bytes] at this
  exact ⟨rfl, ha.2, by simp only; omega⟩

theorem transact_cases (t : Transaction) (s : State) :
    ∃ u, transact t s = .next u ∧ TransactOutcome t s u := by
  unfold transact
  split
  · rename_i k hk
    exact ⟨_, rfl, .refused k hk⟩
  · rename_i r hp
    obtain ⟨hr, ha, hi⟩ := busCheck_pass hp
    split
    · rename_i hd
      exact ⟨_, rfl, .answered r hd (hd ▸ hp)⟩
    · rename_i hd
      cases r with
      | registers =>
        obtain ⟨ht, hm, hle⟩ := register_write hd hr ha
        have ho : ∀ n, t.off.toNat = n → t.off = BitVec.ofNat 18 n := by
          intro n hn; rw [← hn]; simp
        have hb : registerAt t.off.toNat = .cmd ∨ registerAt t.off.toNat = .inLen → s.busy = false := by
          intro h
          rw [hd] at hi
          rcases h with h | h <;> simpa [interlocked, touchesCommand, h] using hi
        rcases (by omega : t.off.toNat = 0 ∨ t.off.toNat = 4 ∨ t.off.toNat = 8 ∨ t.off.toNat = 12 ∨
          t.off.toNat = 16 ∨ t.off.toNat = 20 ∨ t.off.toNat = 24) with h | h | h | h | h | h | h
        · have ht' : t = .wr .four 0x00000 t.data := by rw [ht, ho _ h]; rfl
          have hb := hb (.inl (by rw [h]; rfl))
          simp only [writeRegion, h]
          show ∃ u, issueCommand t.data (answerWrite s) = .next u ∧ _
          unfold issueCommand
          split
          · rename_i r hj; exact ⟨_, rfl, .illegal _ ht' hb r hj⟩
          · rename_i i hj
            exact ⟨_, exec_idle i (by simpa using hb), .issued _ ht' hb i hj⟩
        · simp only [writeRegion, h]; exact ⟨_, rfl, .ignored hd⟩
        · simp only [writeRegion, h]
          exact ⟨_, rfl, .wroteInLen _ (by rw [ht, ho _ h]; rfl) (hb (.inr (by rw [h]; rfl)))⟩
        · simp only [writeRegion, h]; exact ⟨_, rfl, .ignored hd⟩
        · simp only [writeRegion, h]
          exact ⟨_, rfl, .wroteIrqEn _ (by rw [ht, ho _ h]; rfl)⟩
        · simp only [writeRegion, h]
          exact ⟨_, rfl, .wroteIrqPend _ (by rw [ht, ho _ h]; rfl)⟩
        · simp only [writeRegion, h]; exact ⟨_, rfl, .ignored hd⟩
      | inBuf =>
        obtain ⟨h1, h2⟩ := regionOf_inBuf hr
        rw [hd] at hi
        exact ⟨_, rfl, .wroteInBuf hd (by simpa [interlocked, touchesCommand] using hi) h1 h2⟩
      | alphaStd => exact ⟨_, rfl, .ignored hd⟩
      | alphaUrl => exact ⟨_, rfl, .ignored hd⟩
      | decStd => exact ⟨_, rfl, .ignored hd⟩
      | decUrl => exact ⟨_, rfl, .ignored hd⟩
      | outBuf => exact ⟨_, rfl, .ignored hd⟩

/-- What the engine's step does when it answers a next state (41_command.md R74). -/
theorem engineStep_next {s u : State} (h : engineStep s = .next u) :
    (s.busy = false ∧ u = s) ∨
    (s.busy = true ∧ ∃ i, decodeWord (s.latchOp.setWidth 32) = .command i ∧
      u = completeCommand (commandResult i s.cfg.substB1 (operand s)) s) := by
  unfold engineStep at h
  split at h
  · rename_i hb
    split at h
    · rename_i i hi
      rw [exec_busy i hb] at h
      exact .inr ⟨hb, i, hi, by injection h with h; exact h.symm⟩
    · simp at h
  · rename_i hb
    exact .inl ⟨by simpa using hb, by injection h with h; exact h.symm⟩

/-- What a step that answers a next state has done, by the agent that moved (00_scope.md R14). -/
theorem step_cases {s u : State} (h : step s = .next u) :
    (∃ t rest, s.schedule = .transaction t :: rest ∧ TransactOutcome t (beginStep rest s) u) ∨
    (∃ rest, (s.schedule = .engineTurn :: rest ∨ (s.schedule = [] ∧ rest = [] ∧ s.busy = true)) ∧
      engineStep (beginStep rest s) = .next u) ∨
    (∃ rest, s.schedule = .resetInput :: rest ∧ u = resetStep (beginStep rest s)) ∨
    (s.schedule = [] ∧ s.busy = false ∧ u = s) := by
  rcases hs : s.schedule with _ | ⟨e, rest⟩
  · simp only [step, nextStep, hs] at h
    split at h
    · rename_i hb; exact .inr (.inl ⟨[], .inr ⟨rfl, rfl, hb⟩, h⟩)
    · rename_i hb
      exact .inr (.inr (.inr ⟨rfl, by simpa using hb, by injection h with h; exact h.symm⟩))
  · simp only [step, nextStep, hs] at h
    cases e with
    | transaction t =>
      obtain ⟨v, hv, ho⟩ := transact_cases t (beginStep rest s)
      rw [takeEvent, hv] at h
      injection h with h
      exact .inl ⟨t, rest, rfl, h ▸ ho⟩
    | engineTurn => exact .inr (.inl ⟨rest, .inl rfl, h⟩)
    | resetInput =>
      injection h with h
      exact .inr (.inr (.inl ⟨rest, rfl, h.symm⟩))

/-- What a step does before its agent's action changes no check of a transaction (44_host_access.md R107). -/
@[simp] theorem busCheck_beginStep (rest : List Event) (s : State) (d : Dir) (a n : Nat) :
    busCheck (beginStep rest s) d a n = busCheck s d a n := rfl

/-- A step whose schedule begins with an event takes that event. -/
theorem step_of_cons {s : State} {e : Event} {rest : List Event} (h : s.schedule = e :: rest) :
    step s = takeEvent e (beginStep rest s) := by
  simp only [step, nextStep, h]

/-- One more step of a run. -/
theorem run_succ (k : Nat) {s t : State} (h : step s = .next t) : run (k + 1) s = run k t := by
  have h' : Sys2Proof.core.step s = .next t := h
  simp only [run, Host.Core.run]
  rw [h']

@[simp] theorem run_zero (s : State) : run 0 s = .next s := rfl

end Sys2Proof.Machine
end

