-- ==== Sys2Proof/Tests/Slice0.lean ====
section
/-! SUPPORT. The model's own tests. Expected results come from the spec: its encoding table (30_encoding.md R54), its vectors
V1 to V73 (95_test_vectors.md), or arithmetic on them. The second half holds a witness for the hypotheses of each
obligation that has any. -/

namespace Sys2Proof.Tests

open Sys2Proof Sys2Proof.Machine

/-! ### Small states -/

/-- A small configuration: IN_CAP = 8, SUBST_B1 = -1. -/
def small : Config.Params := { inCap := 8, substB1 := -1 }

/-- After reset, with bytes in IN_BUF and their number in IN_LEN. -/
def loaded (bs : List Byte) : State :=
  { State.reset with mem := Memory.store [] inBufBase bs, inLen := BitVec.ofNat 17 bs.length }

/-- The same with the command accepted: BUSY, the latches taken. -/
def accepted (i : Instr) (bs : List Byte) : State :=
  { loaded bs with busy := true, cmd := encode i, latchOp := opcode i, latchLen := BitVec.ofNat 17 bs.length }

/-- After reset, with steps scheduled. -/
def scheduled (es : List Event) : State := { State.resetWith small with schedule := es }

/-- OUT_BUF[0 .. COUNT) of a next state. -/
def output : Host.Outcome State Fault Refusal → List (Option Byte)
  | .next t => (List.range t.outCount.toNat).map fun k => t.mem.read (outBufBase + k)
  | _ => []

/-- The response of a step. -/
def response : Host.Outcome State Fault Refusal → Option Response
  | .next t => t.resp
  | _ => none

/-- STATUS after a step. -/
def statusAfter : Host.Outcome State Fault Refusal → Option Word
  | .next t => some (statusWord t)
  | _ => none

/-- The response of one read or write on a state just after reset in the reference configuration. -/
def answer (t : Transaction) : Option Response := response (step { State.reset with schedule := [.transaction t] })

/-! ### Well-formedness: an ill-formed term for each check -/

theorem test_wellFormed_refuses_reserved :
    CommandFields.wellFormed { rsvd := 1, ignws := false, url := false, dir := true } = false := by decide

theorem test_wellFormed_refuses_encode_with_strip :
    CommandFields.wellFormed { rsvd := 0, ignws := true, url := false, dir := false } = false := by decide

theorem test_legal_refuses_zero_capacity : Config.Params.legal { inCap := 0, substB1 := 0 } = false := by decide

theorem test_legal_refuses_large_capacity : Config.Params.legal { inCap := 49153, substB1 := 0 } = false := by decide

/-! ### Decoding: words written out bit by bit, RSVD IGNWS URL DIR (R52, R54, R55) -/

theorem test_decode_encStd :
    decodeWord 0b00000000000000000000000000000_0_0_0 = .command .encStd := by decide

theorem test_decode_encUrl :
    decodeWord 0b00000000000000000000000000000_0_1_0 = .command .encUrl := by decide

theorem test_decode_decStd :
    decodeWord 0b00000000000000000000000000000_0_0_1 = .command .decStd := by decide

theorem test_decode_decUrl :
    decodeWord 0b00000000000000000000000000000_0_1_1 = .command .decUrl := by decide

theorem test_decode_decStdWs :
    decodeWord 0b00000000000000000000000000000_1_0_1 = .command .decStdWs := by decide

theorem test_decode_decUrlWs :
    decodeWord 0b00000000000000000000000000000_1_1_1 = .command .decUrlWs := by decide

theorem test_decode_encode_with_strip :
    decodeWord 0b00000000000000000000000000000_1_1_0 = .reject .encodeWithStrip := by decide

theorem test_decode_reserved_top :
    decodeWord 0b10000000000000000000000000000_0_0_1 = .reject .reservedBits := by decide

theorem test_decode_reserved_low :
    decodeWord 0b00000000000000000000000000001_0_0_0 = .reject .reservedBits := by decide

theorem test_decodeBytes_truncated : decodeBytes [0x01, 0x00, 0x00] = .reject .truncated := by decide

theorem test_decodeTableWord : decodeTableWord 32 0x00000003 = some .decUrl := by decide

/-! ### Commands: one completion step each, from the vectors -/

/-- V1: `Hello` gives `SGVsbG8=`. -/
theorem test_encStd_hello :
    output (exec .encStd (accepted .encStd [0x48, 0x65, 0x6C, 0x6C, 0x6F])) =
      [some 0x53, some 0x47, some 0x56, some 0x73, some 0x62, some 0x47, some 0x38, some 0x3D] := by decide

/-- V3: `M` gives `TQ==`, no complement taken. -/
theorem test_encStd_one_byte :
    output (exec .encStd (accepted .encStd [0x4D])) = [some 0x54, some 0x51, some 0x3D, some 0x3D] := by decide

/-- V9: FB FF gives `-_8=` under the URL-safe alphabet. -/
theorem test_encUrl_symbols_62_63 :
    output (exec .encUrl (accepted .encUrl [0xFB, 0xFF])) = [some 0x2D, some 0x5F, some 0x38, some 0x3D] := by decide

/-- V5: an empty payload gives COUNT = 0. -/
theorem test_encUrl_empty : output (exec .encUrl (accepted .encUrl [])) = [] := by decide

/-- V27: `TQ==TWFu` gives 4D 4D 61 6E. -/
theorem test_decStd_padding_stops_group :
    output (exec .decStd (accepted .decStd [0x54, 0x51, 0x3D, 0x3D, 0x54, 0x57, 0x46, 0x75])) =
      [some 0x4D, some 0x4D, some 0x61, some 0x6E] := by decide

/-- V34: `A=CD` gives FF F0 83 with SUBST_B1 = -1. -/
theorem test_decStd_invalid_second :
    output (exec .decStd (accepted .decStd [0x41, 0x3D, 0x43, 0x44])) = [some 0xFF, some 0xF0, some 0x83] := by decide

/-- V41: `-_8=` gives FB FF. -/
theorem test_decUrl_symbols_62_63 :
    output (exec .decUrl (accepted .decUrl [0x2D, 0x5F, 0x38, 0x3D])) = [some 0xFB, some 0xFF] := by decide

/-- V45: `T\nWFu` gives FF F5 85 FF without the pre-pass, SUBST_B1 = -1. -/
theorem test_decUrl_keeps_newline :
    output (exec .decUrl (accepted .decUrl [0x54, 0x0A, 0x57, 0x46, 0x75])) =
      [some 0xFF, some 0xF5, some 0x85, some 0xFF] := by decide

/-- V7: `SGVs bG8=` gives `Hello`. -/
theorem test_decStdWs_hello :
    output (exec .decStdWs (accepted .decStdWs [0x53, 0x47, 0x56, 0x73, 0x20, 0x62, 0x47, 0x38, 0x3D])) =
      [some 0x48, some 0x65, some 0x6C, some 0x6C, some 0x6F] := by decide

/-- V43: `TW\tFu` gives 4D FF: a tab is not stripped. -/
theorem test_decStdWs_keeps_tab :
    output (exec .decStdWs (accepted .decStdWs [0x54, 0x57, 0x09, 0x46, 0x75])) = [some 0x4D, some 0xFF] := by decide

/-- R105: `FPuc\nA9l-` gives 14 FB 9C 03 D9 7E. -/
theorem test_decUrlWs_example :
    output (exec .decUrlWs (accepted .decUrlWs [0x46, 0x50, 0x75, 0x63, 0x0A, 0x41, 0x39, 0x6C, 0x2D])) =
      [some 0x14, some 0xFB, some 0x9C, some 0x03, some 0xD9, some 0x7E] := by decide

/-- V38: `////` gives nothing under the URL-safe alphabet. -/
theorem test_decUrlWs_other_alphabet :
    output (exec .decUrlWs (accepted .decUrlWs [0x2F, 0x2F, 0x2F, 0x2F])) = [] := by decide

/-! ### The host interface -/

/-- V50: CAP reads IN_CAP. -/
theorem test_read_cap : answer (.rd .four 0x00018) = some ⟨.okay, some 0x00001000⟩ := by decide

/-- V51: the ALPHA_STD window, little-endian: `89+/`. -/
theorem test_read_alphabet : answer (.rd .four 0x0013C) = some ⟨.okay, some 0x2F2B3938⟩ := by decide

/-- V51: window offsets 65 to 127 read as 0. -/
theorem test_read_alphabet_end : answer (.rd .four 0x00140) = some ⟨.okay, some 0x0000003D⟩ := by decide

/-- V54: the DEC_URL window. -/
theorem test_read_decode_table : answer (.rd .four 0x0035C) = some ⟨.okay, some 0x3FFFFFFF⟩ := by decide

/-- V55: a register read of size 1 is SLVERR. -/
theorem test_read_register_byte : answer (.rd .one 0x00004) = some ⟨.slverr, some 0⟩ := by decide

/-- V56: index OUT_CAP of OUT_BUF is unmapped. -/
theorem test_read_past_outBuf : answer (.rd .one 0x21558) = some ⟨.decerr, some 0⟩ := by decide

/-- V57: bytes 4094 to 4097 of IN_BUF: DECERR comes before SLVERR. -/
theorem test_read_straddles_inBuf : answer (.rd .four 0x10FFE) = some ⟨.decerr, some 0⟩ := by decide

/-- V58: misaligned in a window. -/
theorem test_read_misaligned : answer (.rd .two 0x10001) = some ⟨.slverr, some 0⟩ := by decide

/-- V59: OUT_BUF ignores a host write. -/
theorem test_write_outBuf : answer (.wr .four 0x20000 0x12345678) = some ⟨.okay, none⟩ := by decide

/-- V62: 0x4 is illegal: STATUS = 0x104. -/
theorem test_illegal_command :
    statusAfter (step { State.reset with schedule := [.transaction (.wr .four 0x00000 0x00000004)] }) =
      some 0x00000104 := by decide

/-- V64: IN_LEN = 4097 > IN_CAP: STATUS = 0x204. -/
theorem test_lenRange :
    statusAfter (step { State.reset with
      inLen := 4097, schedule := [.transaction (.wr .four 0x00000 0x00000001)] }) = some 0x00000204 := by decide

/-- V65: ILLEGAL_CMD before LEN_RANGE: STATUS = 0x104. -/
theorem test_illegal_before_lenRange :
    statusAfter (step { State.reset with
      inLen := 4097, schedule := [.transaction (.wr .four 0x00000 0x00000004)] }) = some 0x00000104 := by decide

/-- V69: while BUSY a CMD write is SLVERR. -/
theorem test_busy_refuses_command :
    response (step { accepted .encStd [0x4D] with schedule := [.transaction (.wr .four 0x00000 0x00000001)] }) =
      some ⟨.slverr, none⟩ := by decide

/-- R71, R72: a placed command word starts its command: STATUS = 0x1. -/
theorem test_placed_word_starts : statusAfter (step (State.reset.withFetchWord 32 0x00000005)) = some 0x00000001 := by
  decide

/-- R59: `LOAD "M"` is the byte write and the length write. -/
theorem test_pseudoLoad :
    pseudoLoad [0x4D] = [.wr .one 0x10000 0x0000004D, .wr .four 0x00008 0x00000001] := by decide

/-! ### Witnesses: states and operands that meet the hypotheses of the obligations -/

/-- The invariant of an accepted command in the reference configuration. -/
theorem inv_accepted : (accepted .encStd [0x4D]).Inv where
  cfgLegal   := by decide
  oneOutcome := by decide
  causeErr   := by decide
  causeCode  := by decide
  cmdLegal   := fun _ => ⟨.encStd, rfl⟩
  latchOp    := by decide
  latchLen   := by decide
  lenFits    := by decide
  countFits  := by decide
  memWf      := by decide
  memPlaced  := by simp [accepted, loaded, State.reset, State.resetWith, Memory.store, cellsFrom, inBuffers, inBufBase,
    Config.Params.reference]

theorem witness_EncodeSplitsAtGroups : ([0x4D, 0x61, 0x6E] : List Byte).length % 3 = 0 := by decide

theorem witness_InvalidStartsAreSkipped :
    ∀ c ∈ ([0x3D, 0x20, 0x80] : List Byte), ¬ (0 ≤ decVal .std c ∧ decVal .std c ≤ 63) := by decide

theorem witness_GroupDecodesByFormula : 0 ≤ decVal .std 0x41 ∧ decVal .std 0x41 ≤ 63 ∧
    0 ≤ decVal .url 0x5F ∧ decVal .url 0x5F ≤ 63 := by decide

theorem witness_EncodeCommandsComplete :
    (accepted .encStd [0x4D]).busy = true ∧ (accepted .encUrl []).busy = true := by decide

theorem witness_DecodeCommandsComplete :
    (accepted .decStd [0x54]).busy = true ∧ (accepted .decUrl []).busy = true ∧
    (accepted .decStdWs [0x20]).busy = true ∧ (accepted .decUrlWs [0x0A]).busy = true := by decide

theorem witness_CommandsStartWhenIdle :
    (loaded []).busy = false ∧ (loaded []).inLen.toNat ≤ (loaded []).cfg.inCap ∧
    ({ loaded [] with inLen := 4096 } : State).inLen.toNat = (loaded []).cfg.inCap := by decide

theorem witness_TooLongInputRaisesLenRange :
    (loaded []).busy = false ∧ (loaded []).cfg.inCap < ({ loaded [] with inLen := 4097 } : State).inLen.toNat := by decide

theorem witness_CompletionFrame :
    (accepted .decUrl []).busy = true ∧ ∃ t, exec .decUrl (accepted .decUrl []) = .next t := ⟨rfl, _, rfl⟩

theorem witness_ResultIgnoresBytesPastLength :
    (accepted .encStd [0x4D]).busy = true ∧ (accepted .encStd [0x4D]).latchLen.toNat ≤ 1 ∧
    ∃ t, exec .encStd (accepted .encStd [0x4D]) = .next t := ⟨rfl, by decide, _, rfl⟩

theorem witness_CmdWriteRunsDecodedCommand :
    (scheduled [.transaction (.wr .four 0x00000 0x00000005)]).busy = false ∧
    decodeWord 0x00000005 = .command .decStdWs ∧
    (scheduled [.transaction (.wr .four 0x00000 0x00000005)]).schedule =
      .transaction (.wr .four 0x00000 0x00000005) :: [] := by decide

theorem witness_EngineStepRunsLatchedCommand :
    (accepted .decUrlWs []).busy = true ∧
    (accepted .decUrlWs []).latchOp = (encode .decUrlWs).extractLsb' 0 3 ∧ (accepted .decUrlWs []).schedule = [] ∧
    ({ accepted .decUrlWs [] with schedule := [.engineTurn] } : State).schedule = .engineTurn :: [] := by decide

theorem witness_IllegalWordRaisesIllegalCmd :
    (scheduled [.transaction (.wr .four 0x00000 0x00000006)]).busy = false ∧
    (∀ i : Instr, (0x00000006 : Word) ≠ encode i) ∧ (∀ i : Instr, (0x00000008 : Word) ≠ encode i) :=
  ⟨rfl, by intro i; cases i <;> decide, by intro i; cases i <;> decide⟩

/-- The state of a whole command with the one byte 0x4D. -/
def wholeCommand : State :=
  { loaded [0x4D] with schedule := [.transaction (.wr .four 0x00000 (encode .encStd)), .engineTurn] }

theorem witness_CommandRunDeliversResult :
    wholeCommand.Inv ∧ wholeCommand.busy = false ∧
    wholeCommand.schedule = .transaction (.wr .four 0x00000 (encode .encStd)) :: .engineTurn :: [] ∧
    wholeCommand.inLen.toNat = ([0x4D] : List Byte).length ∧
    ([0x4D] : List Byte).length ≤ wholeCommand.cfg.inCap ∧
    (∀ k (h : k < ([0x4D] : List Byte).length), wholeCommand.mem.read (inBufBase + k) = some ([0x4D] : List Byte)[k]) :=
  ⟨{ cfgLegal := by decide, oneOutcome := by decide, causeErr := by decide, causeCode := by decide,
     cmdLegal := fun h => absurd h (by decide), latchOp := by decide, latchLen := by decide, lenFits := by decide,
     countFits := by decide, memWf := by decide, memPlaced := inv_accepted.memPlaced }, rfl, rfl, rfl, by decide,
    by decide⟩

theorem witness_AddressMapRegions :
    small.legal = true ∧ 0 < 4 ∧
    regionOf small 0x18 4 = some .registers ∧ regionOf small 0x1C 4 = none ∧
    regionOf small 0x17C 4 = some .alphaStd ∧ regionOf small 0x17E 4 = none ∧ regionOf small 0x180 4 = some .alphaUrl ∧
    regionOf small 0x200 4 = some .decStd ∧ regionOf small 0x3FC 4 = some .decUrl ∧ regionOf small 0x400 1 = none ∧
    regionOf small 0x10004 4 = some .inBuf ∧ regionOf small 0x10006 4 = none ∧
    regionOf small 0x2000B 1 = some .outBuf ∧ regionOf small 0x2000C 1 = none := by decide

theorem witness_TransactionCheckOrder :
    regionOf small 0x0001C 4 = none ∧ regionOf small 0x00002 4 = some .registers ∧ ¬ (4 = 4 ∧ 0x00002 % 4 = 0) ∧
    regionOf small 0x10001 2 = some .inBuf ∧ ¬ 0x10001 % 2 = 0 ∧ (scheduled []).busy = false := by decide

theorem witness_BusyInterlockRefusesFourCases :
    (accepted .encStd []).busy = true ∧ (loaded []).busy = false ∧
    regionOf (accepted .encStd []).cfg 0x00000 4 = some .registers ∧ sizeAligned .registers 0x00000 4 = true ∧
    regionOf (accepted .encStd []).cfg 0x00008 4 = some .registers ∧ sizeAligned .registers 0x00008 4 = true ∧
    regionOf (accepted .encStd []).cfg 0x00010 4 = some .registers ∧ sizeAligned .registers 0x00010 4 = true ∧
    regionOf (accepted .encStd []).cfg 0x10000 1 = some .inBuf ∧ sizeAligned .inBuf 0x10000 1 = true ∧
    regionOf (accepted .encStd []).cfg 0x20000 1 = some .outBuf ∧ sizeAligned .outBuf 0x20000 1 = true := by decide

theorem witness_RefusedTransactionChangesNothing :
    (scheduled [.transaction (.rd .one 0x00004)]).schedule = .transaction (.rd .one 0x00004) :: [] ∧
    busCheck (scheduled [.transaction (.rd .one 0x00004)]) .read 0x00004 1 = .busError .slverr ∧
    busCheck (scheduled [.transaction (.wr .four 0x00400 0)]) .write 0x00400 4 = .busError .decerr := by decide

theorem witness_ReadsHaveNoSideEffect :
    (Transaction.rd .one 0x20000).dir = .read ∧
    (scheduled [.transaction (.rd .one 0x20000)]).schedule = .transaction (.rd .one 0x20000) :: [] := by decide

/-- The state of a read of CAP just after reset, IN_CAP = 8. -/
def readCap : State := scheduled [.transaction (.rd .four 0x00018)]

theorem witness_RegisterReadValues :
    readCap.cfg.legal = true ∧
    ((0x00018 : Offset), (8 : Word)) ∈ [((0x00000 : Offset), readCap.cmd),
      (0x00004, BitVec.ofNat 32 (readCap.busy.toNat + 2 * readCap.done.toNat + 4 * readCap.err.toNat +
        256 * readCap.cause.toNat)),
      (0x00008, BitVec.ofNat 32 readCap.inLen.toNat),
      (0x0000C, BitVec.ofNat 32 readCap.outCount.toNat),
      (0x00010, BitVec.ofNat 32 (readCap.doneIE.toNat + 2 * readCap.errIE.toNat)),
      (0x00014, BitVec.ofNat 32 (readCap.doneIP.toNat + 2 * readCap.errIP.toNat)),
      (0x00018, BitVec.ofNat 32 readCap.cfg.inCap)] ∧
    readCap.schedule = .transaction (.rd .four 0x00018) :: [] := by decide

theorem witness_RomWindowReads :
    (scheduled [.transaction (.rd .one (BitVec.ofNat 18 (0x100 + 127)))]).schedule =
      .transaction (.rd .one (BitVec.ofNat 18 ((if Alphabet.std = .std then 0x100 else 0x180) + 127))) :: [] ∧
    (scheduled [.transaction (.rd .one (BitVec.ofNat 18 (0x300 + 255)))]).schedule =
      .transaction (.rd .one (BitVec.ofNat 18 ((if Alphabet.url = .std then 0x200 else 0x300) + 255))) :: [] := by decide

theorem witness_WritableRegistersTakeWrites :
    (scheduled [.transaction (.wr .four 0x00008 0xFFFFFFFF)]).busy = false ∧
    (scheduled [.transaction (.wr .four 0x00008 0xFFFFFFFF)]).schedule =
      .transaction (.wr .four 0x00008 0xFFFFFFFF) :: [] ∧
    (scheduled [.transaction (.wr .four 0x00010 0x3)]).schedule = .transaction (.wr .four 0x00010 0x3) :: [] ∧
    (scheduled [.transaction (.wr .four 0x00014 0x1)]).schedule = .transaction (.wr .four 0x00014 0x1) :: [] := by decide

theorem witness_ReadOnlyLocationsIgnoreWrites :
    small.legal = true ∧ (Transaction.wr .four 0x00018 0).dir = .write ∧
    (Transaction.wr .four 0x00018 0).off.toNat % (Transaction.wr .four 0x00018 0).size.bytes = 0 ∧
    (0x100 ≤ (Transaction.wr .one 0x003FF 0).off.toNat ∧
      (Transaction.wr .one 0x003FF 0).off.toNat + (Transaction.wr .one 0x003FF 0).size.bytes ≤ 0x400) ∧
    (0x20000 ≤ (Transaction.wr .four 0x20008 0).off.toNat ∧
      (Transaction.wr .four 0x20008 0).off.toNat + (Transaction.wr .four 0x20008 0).size.bytes ≤
        0x20000 + small.outCap) ∧
    (scheduled [.transaction (.wr .four 0x00018 0)]).schedule = .transaction (.wr .four 0x00018 0) :: [] := by decide

theorem witness_InBufStoreThenLoad :
    small.legal = true ∧ (scheduled []).busy = false ∧ 4 % Size.four.bytes = 0 ∧ 4 + Size.four.bytes ≤ small.inCap ∧
    (scheduled [.transaction (.wr .four 0x10004 0x6E614D), .transaction (.rd .four 0x10004)]).schedule =
      .transaction (.wr .four (BitVec.ofNat 18 (0x10000 + 4)) 0x6E614D) ::
        .transaction (.rd .four (BitVec.ofNat 18 (0x10000 + 4))) :: [] := by decide

theorem witness_ResetLeavesSpecValues : (scheduled [.resetInput]).schedule = .resetInput :: [] := by decide

theorem witness_ResetAbortsCommand :
    ({ accepted .encStd [0x4D] with schedule := [.resetInput, .engineTurn] } : State).busy = true ∧
    ({ accepted .encStd [0x4D] with schedule := [.resetInput, .engineTurn] } : State).schedule =
      .resetInput :: .engineTurn :: [] := by decide

/-- Pending bits set, then cleared by the host, for each of the two bits, and by reset. -/
theorem witness_PendingBitsClearedOnlyByHostOrReset :
    (∃ t, step { scheduled [.transaction (.wr .four 0x00014 1)] with doneIP := true } = .next t ∧ t.doneIP = false) ∧
    (∃ t, step { scheduled [.transaction (.wr .four 0x00014 2)] with errIP := true } = .next t ∧ t.errIP = false) ∧
    (∃ t, step { scheduled [.resetInput] with doneIP := true } = .next t ∧ t.doneIP = false) :=
  ⟨⟨_, rfl, rfl⟩, ⟨_, rfl, rfl⟩, ⟨_, rfl, rfl⟩⟩

theorem witness_BusyClearedOnlyByCompletionOrReset :
    (∃ t, step (accepted .encStd []) = .next t ∧ (accepted .encStd []).busy = true ∧ t.busy = false) ∧
    (∃ t, step { accepted .encStd [] with schedule := [.resetInput] } = .next t ∧ t.busy = false) :=
  ⟨⟨_, rfl, rfl, rfl⟩, ⟨_, rfl, rfl⟩⟩

/-- COUNT changes by a completion, by a command error and by reset. -/
theorem witness_CountWrittenAtCompletionOrError :
    (∃ t, step (accepted .encStd [0x4D]) = .next t ∧ t.outCount ≠ (accepted .encStd [0x4D]).outCount) ∧
    (∃ t, step { scheduled [.transaction (.wr .four 0x00000 4)] with outCount := 4 } = .next t ∧ t.outCount ≠ 4) ∧
    (∃ t, step { scheduled [.resetInput] with outCount := 4 } = .next t ∧ t.outCount ≠ 4) :=
  ⟨⟨_, rfl, by decide⟩, ⟨_, rfl, by decide⟩, ⟨_, rfl, by decide⟩⟩

theorem witness_InBufWrittenOnlyByHost :
    (∃ t, step (scheduled [.transaction (.wr .one 0x10007 0x4D)]) = .next t ∧ 0x10007 < 0x20000 ∧
      t.mem.read 0x10007 ≠ (scheduled []).mem.read 0x10007) ∧
    (∃ t, step { loaded [0x4D] with schedule := [.resetInput] } = .next t ∧
      t.mem.read 0x10000 ≠ (loaded [0x4D]).mem.read 0x10000) :=
  ⟨⟨_, rfl, by decide, by decide⟩, ⟨_, rfl, by decide⟩⟩

theorem witness_OutBufWrittenOnlyByCompletion :
    (accepted .encStd [0x4D]).Inv ∧
    ∃ t, step (accepted .encStd [0x4D]) = .next t ∧ 0x20000 ≤ 0x20003 ∧
      t.mem.read 0x20003 ≠ (accepted .encStd [0x4D]).mem.read 0x20003 :=
  ⟨inv_accepted, _, rfl, by decide, by decide⟩

theorem witness_BusyKeepsCommandFixed :
    ∃ t, step { accepted .encStd [0x4D] with schedule := [.transaction (.wr .four 0x00010 1)] } = .next t ∧
      (accepted .encStd [0x4D]).busy = true ∧ t.busy = true := ⟨_, rfl, rfl, rfl⟩

theorem witness_ParametersConstant : ∃ t, step (scheduled [.resetInput]) = .next t := ⟨_, rfl⟩

theorem witness_ResetMeetsInvariant :
    small.legal = true ∧ Config.Params.legal { inCap := 1, substB1 := 64 } = true ∧
    Config.Params.legal { inCap := 49152, substB1 := 0 } = true := by decide

theorem witness_StepKeepsInvariant :
    (accepted .encStd [0x4D]).Inv ∧ ∃ t, step (accepted .encStd [0x4D]) = .next t := ⟨inv_accepted, _, rfl⟩

theorem witness_StepNeverStops : (accepted .encStd [0x4D]).Inv := inv_accepted

/-- A BUSY engine whose turn comes before a reset. -/
def turnThenReset : State := { accepted .encStd [0x4D] with schedule := [.engineTurn, .resetInput] }

theorem witness_BusyEngineCompletes :
    turnThenReset.Inv ∧ turnThenReset.busy = true ∧
    ∀ before after, turnThenReset.schedule = before ++ .resetInput :: after → .engineTurn ∈ before := by
  have h := inv_accepted
  refine ⟨⟨h.1, h.2, h.3, h.4, h.5, h.6, h.7, h.8, h.9, h.10, h.11⟩, rfl, fun before after hs => ?_⟩
  rcases before with _ | ⟨e, before⟩
  · simp [turnThenReset] at hs
  · simp only [turnThenReset, List.cons_append, List.cons.injEq] at hs
    simp [← hs.1]

theorem witness_FinalStateStays : State.reset.final ∧ (accepted .encStd []).busy = true := ⟨⟨rfl, rfl⟩, rfl⟩

theorem witness_ValidGroupBytesAreBitFields : (0 : Nat) < 64 ∧ (63 : Nat) < 64 := by decide

theorem witness_SubstitutedSecondSymbol : (0 : Nat) < 64 ∧ (63 : Nat) < 64 := by decide

/-- One read of a region, on an idle or a BUSY engine. -/
def reading (busy : Bool) (size : Size) (off : Offset) : State :=
  { accepted .encStd [0x4D] with busy := busy, schedule := [.transaction (.rd size off)] }

/-- A passing read of each region but the registers: IN_BUF while BUSY, OUT_BUF while idle, the ROM windows at their last
word or half word; a written byte of each buffer. -/
theorem witness_HostReadAnswersRegionBytes :
    (Transaction.rd .four 0x0017C).dir = .read ∧
    (reading true .one 0x10000).schedule = .transaction (.rd .one 0x10000) :: [] ∧
    busCheck (reading true .one 0x10000) .read 0x10000 1 = .pass .inBuf ∧
    (reading true .one 0x10000).mem.read (0x10000 + 0) = some 0x4D ∧
    busCheck (reading false .four 0x20000) .read 0x20000 4 = .pass .outBuf ∧
    ({ reading false .four 0x20000 with mem := [(0x20003, 0x3D)] } : State).mem.read (0x20000 + 3) = some 0x3D ∧
    busCheck (reading true .four 0x0017C) .read 0x0017C 4 = .pass .alphaStd ∧
    busCheck (reading true .two 0x001FE) .read 0x001FE 2 = .pass .alphaUrl ∧
    busCheck (reading true .four 0x002FC) .read 0x002FC 4 = .pass .decStd ∧
    busCheck (reading true .two 0x003FE) .read 0x003FE 2 = .pass .decUrl := by decide

theorem witness_ReadDataLittleEndian : (4 : Nat) ≤ 4 ∧ (3 : Nat) < 4 := by decide

end Sys2Proof.Tests
end

/-! ## Proofs: the parameters (00_scope.md R8) -/

namespace Sys2Proof.Machine

/-- No transaction, refused or passed, changes the parameters. -/
theorem TransactOutcome.cfg_eq {t : Transaction} {s u : State} (h : TransactOutcome t s u) : u.cfg = s.cfg := by
  cases h with
  | refused => exact raiseBusError_cfg ..
  | answered => exact answerRead_cfg ..
  | illegal => simp
  | issued => simp
  | wroteInLen => exact writeInLen_cfg ..
  | wroteIrqEn => exact writeIrqEn_cfg ..
  | wroteIrqPend => exact acknowledge_cfg ..
  | wroteInBuf => exact memWrite_cfg ..
  | ignored => exact answerWrite_cfg ..

/-- The engine's step, a completion or none, leaves the parameters. -/
theorem engineStep_cfg {s u : State} (h : engineStep s = .next u) : u.cfg = s.cfg := by
  obtain ⟨-, rfl⟩ | ⟨-, _, -, rfl⟩ := engineStep_next h
  · rfl
  · exact completeCommand_cfg ..

/-- Settles O52: each of the three agents leaves the parameters, and so does a final state. -/
theorem parametersConstant : Obligations.ParametersConstant := by
  intro s t h
  obtain ⟨_, rest, -, ho⟩ | ⟨rest, -, he⟩ | ⟨rest, -, rfl⟩ | ⟨-, -, rfl⟩ := step_cases h
  · exact ho.cfg_eq.trans (beginStep_cfg rest s)
  · exact (engineStep_cfg he).trans (beginStep_cfg rest s)
  · exact (resetStep_cfg _).trans (beginStep_cfg rest s)
  · rfl

end Sys2Proof.Machine

/-! ## Proofs: the length of a command's result (00_scope.md R8, 42_encode.md R81, 43_decode.md R97) -/

namespace Sys2Proof.Machine

/-- Three payload bytes, or the one or two left over, make four symbols (R81). -/
theorem length_base64Encode (a : Alphabet) (l : List Byte) :
    (base64Encode a l).length = 4 * ((l.length + 2) / 3) := by
  fun_induction base64Encode a l with
  | case1 x y z rest ih =>
    simp only [List.length_append, length_encodeGroup, ih, List.length_cons]
    omega
  | case2 => simp
  | case3 => simp
  | case4 => rfl

/-- A group emits one byte for its first position and at most one each for its third and fourth (R97). -/
theorem length_base64Decode_le (a : Alphabet) (k : Int) (l : List Byte) : (base64Decode a k l).length ≤ l.length := by
  fun_induction base64Decode a k l with
  | case1 => exact le_rfl
  | case2 c0 _ c1 c2 c3 more ih =>
    have := length_decodeGroup_le a k c0 (some c1) (some c2) (some c3)
    simp only [Option.toList, List.length_append, List.length_cons, List.length_nil] at this ⊢
    omega
  | case3 c0 _ c1 c2 =>
    have := length_decodeGroup_le a k c0 (some c1) (some c2) none
    simp only [Option.toList, List.length_cons, List.length_nil] at this ⊢
    omega
  | case4 c0 _ c1 => exact (length_decodeGroup_le a k c0 (some c1) none none).trans (by simp)
  | case5 c0 _ => exact length_decodeGroup_le a k c0 none none none
  | case6 c0 rest _ ih => exact ih.trans (Nat.le_succ _)

/-- No command's result overflows OUT_BUF (R8). -/
theorem length_commandResult_le {p : Config.Params} {l : List Byte} (h : l.length ≤ p.inCap) (i : Instr) (k : Int) :
    (commandResult i k l).length ≤ p.outCap := by
  have henc : ∀ a, (base64Encode a l).length ≤ p.outCap := fun a => by
    rw [length_base64Encode, Config.Params.outCap]
    omega
  have hdec : ∀ a m, m.length ≤ l.length → (base64Decode a k m).length ≤ p.outCap := fun a m hm => by
    have := length_base64Decode_le a k m
    rw [Config.Params.outCap]
    omega
  have hstrip : (stripWhitespace l).length ≤ l.length := List.length_filter_le ..
  cases i with
  | encStd => exact henc .std
  | encUrl => exact henc .url
  | decStd => exact hdec .std l le_rfl
  | decUrl => exact hdec .url l le_rfl
  | decStdWs => exact hdec .std _ hstrip
  | decUrlWs => exact hdec .url _ hstrip

/-- COUNT holds every length up to OUT_CAP: 17 bits suffice for every legal IN_CAP (10_state.md R22). -/
theorem toNat_count_of_le {p : Config.Params} (hp : p.legal = true) {n : Nat} (h : n ≤ p.outCap) :
    (BitVec.ofNat 17 n).toNat = n := by
  obtain ⟨-, hcap⟩ := legal_bounds hp
  rw [Config.Params.outCap] at h
  rw [BitVec.toNat_ofNat]
  omega

end Sys2Proof.Machine

/-! ## Proofs: the decoder accepts only the words of R54 (30_encoding.md R56) -/

namespace Sys2Proof

/-- Fields the decoder accepts are the fields of the command it names. -/
theorem eq_fields_of_decodeFields {f : CommandFields} {i : Instr} (h : decodeFields f = .command i) : f = i.fields := by
  obtain ⟨rsvd, ignws, url, dir⟩ := f
  unfold decodeFields at h
  split at h
  · cases h
  · rename_i hr
    obtain rfl : rsvd = 0 := by simpa [CommandFields.reservedZero] using hr
    -- each accepting arm fixes the three bits; the two rejecting arms contradict h
    split at h
    all_goals cases h
    all_goals simp_all [Instr.fields]

/-- A word the decoder accepts is the word of the command it names. -/
theorem eq_encode_of_decodeWord {w : Word} {i : Instr} (h : decodeWord w = .command i) : w = encode i := by
  rw [encode, ← eq_fields_of_decodeFields h, wordOfFields_fieldsOfWord]

end Sys2Proof

/-! ## Proofs: every step keeps the invariant (10_state.md R20, R22, R29, 20_memory.md R33) -/

namespace Sys2Proof.Machine

/-! ### Each operation -/

/-- The state after reset meets the invariant under every legal parameter value (70_reset_and_hazards.md R128). -/
theorem inv_resetWith {p : Config.Params} (hp : p.legal = true) : (State.resetWith p).Inv where
  cfgLegal := hp
  oneOutcome := ⟨rfl, rfl, rfl⟩
  causeErr := by simp [State.resetWith]
  causeCode := Nat.zero_le _
  cmdLegal h := nomatch h
  latchOp h := nomatch h
  latchLen h := nomatch h
  lenFits h := nomatch h
  countFits := Nat.zero_le _
  memWf := List.Pairwise.nil
  memPlaced c h := nomatch h

/-- A store inside the two buffers keeps every listed byte inside them. -/
theorem placed_store {p : Config.Params} {m : Memory} {a : Nat} {bs : List Byte}
    (hm : ∀ c ∈ m, inBuffers p c.1) (hs : ∀ x, a ≤ x → x < a + bs.length → inBuffers p x) :
    ∀ c ∈ m.store a bs, inBuffers p c.1 := by
  intro c hc
  obtain hc | ⟨h1, h2⟩ := Memory.mem_store hc
  · exact hm c hc
  · exact hs c.1 h1 h2

namespace State.Inv

variable {s : State} (h : s.Inv)
include h

theorem beginStep (rest : List Event) : (beginStep rest s).Inv := { h with }

theorem answerRead (r : Region) (a n : Nat) : (answerRead r a n s).Inv := { h with }

theorem answerWrite : (answerWrite s).Inv := { h with }

theorem raiseBusError (d : Dir) (k : BusResponse) : (raiseBusError d k s).Inv := by
  cases d with
  | read => exact { h with }
  | write => exact { h with }

theorem writeIrqEn (v : Word) : (writeIrqEn v s).Inv := { h with }

theorem acknowledge (v : Word) : (acknowledge v s).Inv := { h with }

/-- IN_LEN may differ from LATCH_LEN while the engine is idle (R29). -/
theorem writeInLen (hb : s.busy = false) (v : Word) : (writeInLen v s).Inv :=
  { h with latchLen := fun h' => by simp [hb] at h' }

/-- CMD may hold any word while the engine is idle (41_command.md R71). -/
theorem acceptCommand (hb : s.busy = false) (w : Word) : (acceptCommand w s).Inv where
  __ := h
  oneOutcome := by simp
  causeErr := by simp
  causeCode := Nat.zero_le _
  cmdLegal h' := by simp [hb] at h'
  latchOp h' := by simp [hb] at h'

/-- A command error on an idle engine with DONE clear (R73, 60_exceptions.md R115). -/
theorem raiseCommandError (hb : s.busy = false) (hd : s.done = false) (c : CommandError) :
    (raiseCommandError c s).Inv where
  __ := h
  oneOutcome := by simp [hb, hd]
  causeErr := by cases c <;> simp [Machine.causeCode]
  causeCode := by cases c <;> simp [Machine.causeCode]
  countFits := Nat.zero_le _

/-- The start of the command in CMD with the outcome flags clear, or its length error (R72). -/
theorem startCommand {i : Instr} (hb : s.busy = false) (hd : s.done = false) (he : s.err = false)
    (hc : s.cmd = encode i) : (startCommand (opcode i) s).Inv := by
  obtain ⟨hlen, hs⟩ | ⟨-, hs⟩ := startCommand_cases (opcode i) s
  · rw [hs]
    exact { h with
      oneOutcome := by simp [hd, he]
      cmdLegal := fun _ => ⟨i, hc⟩
      latchOp := fun _ => by rw [hc]; rfl
      latchLen := fun _ => rfl
      lenFits := fun _ => hlen }
  · rw [hs]
    exact h.raiseCommandError hb hd .lenRange

/-- A host write inside the IN_BUF window (20_memory.md R37). -/
theorem memWrite {a n : Nat} (h1 : inBufBase ≤ a) (h2 : a + n ≤ inBufBase + s.cfg.inCap) (v : Word) :
    (memWrite a n v s).Inv where
  __ := h
  memWf := Memory.wf_store h.memWf ..
  memPlaced := placed_store h.memPlaced fun x hx hx' => .inl ⟨h1.trans hx, by
    rw [length_bytesOfWord] at hx'
    exact hx'.trans_le h2⟩

/-- The completion of a command whose result fits OUT_BUF (R74). -/
theorem completeCommand (hb : s.busy = true) {r : List Byte} (hr : r.length ≤ s.cfg.outCap) :
    (completeCommand r s).Inv where
  __ := h
  oneOutcome := by
    have he : s.err = false := by simpa [hb] using h.oneOutcome.2.1
    simp [he]
  cmdLegal h' := nomatch h'
  latchOp h' := nomatch h'
  latchLen h' := nomatch h'
  lenFits h' := nomatch h'
  countFits := (toNat_count_of_le h.cfgLegal hr).trans_le hr
  memWf := Memory.wf_store h.memWf ..
  memPlaced := placed_store h.memPlaced fun x hx hx' => .inr ⟨hx, hx'.trans_le (Nat.add_le_add_left hr _)⟩

theorem resetStep : (resetStep s).Inv := { inv_resetWith h.cfgLegal with }

/-- While BUSY the result of any command over the operand fits OUT_BUF (R22). -/
theorem length_result_le (hb : s.busy = true) (i : Instr) (k : Int) :
    (commandResult i k (operand s)).length ≤ s.cfg.outCap :=
  length_commandResult_le (by rw [length_operand]; exact h.lenFits hb) i k

/-! ### Each agent -/

/-- Every transaction, refused or passed, keeps the invariant. -/
theorem transact {t : Transaction} {u : State} (ho : TransactOutcome t s u) : u.Inv := by
  cases ho with
  | refused k => exact h.raiseBusError t.dir k
  | answered r => exact h.answerRead ..
  | illegal w _ hb => exact (h.answerWrite.acceptCommand hb w).raiseCommandError hb rfl _
  | issued w _ hb i hw => exact (h.answerWrite.acceptCommand hb w).startCommand hb rfl rfl (eq_encode_of_decodeWord hw)
  | wroteInLen v _ hb => exact h.answerWrite.writeInLen hb v
  | wroteIrqEn v => exact h.answerWrite.writeIrqEn v
  | wroteIrqPend v => exact h.answerWrite.acknowledge v
  | wroteInBuf _ _ h1 h2 => exact h.answerWrite.memWrite h1 h2 _
  | ignored => exact h.answerWrite

/-- The engine's step, a completion or none, keeps the invariant. -/
theorem engineStep {u : State} (he : engineStep s = .next u) : u.Inv := by
  obtain ⟨-, rfl⟩ | ⟨hb, i, -, rfl⟩ := engineStep_next he
  · exact h
  · exact h.completeCommand hb (h.length_result_le hb i _)

end State.Inv

/-- Settles O54: each of the three agents keeps the invariant, and a final state stays as it is. -/
theorem stepKeepsInvariant : Obligations.StepKeepsInvariant := by
  intro s t h hstep
  obtain ⟨_, rest, -, ho⟩ | ⟨rest, -, he⟩ | ⟨rest, -, rfl⟩ | ⟨-, -, rfl⟩ := step_cases hstep
  · exact (h.beginStep rest).transact ho
  · exact (h.beginStep rest).engineStep he
  · exact (h.beginStep rest).resetStep
  · exact h

/-- Settles O53: the reference configuration is one legal value of the parameters. -/
theorem resetMeetsInvariant : Obligations.ResetMeetsInvariant :=
  ⟨fun _ hp => inv_resetWith hp, inv_resetWith rfl⟩

end Sys2Proof.Machine

/-! ## Proofs: who writes COUNT and the buffers (10_state.md R22, R26, R27) -/

namespace Sys2Proof.Machine

/-! ### COUNT -/

/-- A transaction leaves COUNT, or is a CMD write on an idle engine that ends in a command error, COUNT 0 (R22). -/
theorem TransactOutcome.outCount_cases {t : Transaction} {s u : State} (h : TransactOutcome t s u) :
    u.outCount = s.outCount ∨
    (s.busy = false ∧ u.err = true ∧ u.outCount = 0 ∧ ∃ w, t = .wr .four 0x00000 w) := by
  cases h with
  | refused => exact .inl (raiseBusError_outCount ..)
  | answered => exact .inl rfl
  | illegal w ht hb => exact .inr ⟨hb, rfl, rfl, w, ht⟩
  | issued w ht hb i =>
    obtain ⟨-, hs⟩ | ⟨-, hs⟩ := startCommand_cases (opcode i) (acceptCommand w (answerWrite s))
    · rw [hs]; exact .inl rfl
    · rw [hs]; exact .inr ⟨hb, rfl, rfl, w, ht⟩
  | wroteInLen => exact .inl rfl
  | wroteIrqEn => exact .inl rfl
  | wroteIrqPend => exact .inl rfl
  | wroteInBuf => exact .inl rfl
  | ignored => exact .inl rfl

/-- Settles O48: of the three agents, the host writes COUNT by a command error alone, the engine by a completion. -/
theorem countWrittenAtCompletionOrError : Obligations.CountWrittenAtCompletionOrError := by
  intro s u hstep hne
  obtain ⟨t, rest, hs, ho⟩ | ⟨rest, -, he⟩ | ⟨rest, hs, -⟩ | ⟨-, -, rfl⟩ := step_cases hstep
  · obtain heq | ⟨hb, herr, hzero, w, rfl⟩ := ho.outCount_cases
    · exact absurd heq hne
    · exact .inr (.inl ⟨hb, herr, hzero, w, by rw [hs]; rfl⟩)
  · obtain ⟨-, rfl⟩ | ⟨hb, _, -, rfl⟩ := engineStep_next he
    · exact absurd rfl hne
    · exact .inl ⟨hb, rfl, rfl⟩
  · exact .inr (.inr (by rw [hs]; rfl))
  · exact absurd rfl hne

/-! ### The buffers -/

/-- What a step that answers u has done to the buffers' memory. -/
inductive MemoryOutcome (s u : State) : Prop where
  | kept (hm : u.mem = s.mem)
  | hostStore (t : Transaction) (hs : s.schedule.head? = some (.transaction t)) (hd : t.dir = .write)
      (hb : s.busy = false) (h1 : inBufBase ≤ t.off.toNat)
      (h2 : t.off.toNat + t.size.bytes ≤ inBufBase + s.cfg.inCap)
      (hm : u.mem = s.mem.store t.off.toNat (bytesOfWord t.size.bytes t.data))
  | completed (hb : s.busy = true) (r : List Byte) (hr : s.Inv → r.length ≤ s.cfg.outCap)
      (hu : u.busy = false) (hd : u.done = true) (hc : u.outCount = BitVec.ofNat 17 r.length)
      (hm : u.mem = s.mem.store outBufBase r)
  | reset (hs : s.schedule.head? = some .resetInput)

/-- A transaction stores to memory only by a write inside IN_BUF on an idle engine (44_host_access.md R110). -/
theorem TransactOutcome.mem_cases {t : Transaction} {s u : State} (h : TransactOutcome t s u) :
    u.mem = s.mem ∨
    (t.dir = .write ∧ s.busy = false ∧ inBufBase ≤ t.off.toNat ∧
      t.off.toNat + t.size.bytes ≤ inBufBase + s.cfg.inCap ∧
      u.mem = s.mem.store t.off.toNat (bytesOfWord t.size.bytes t.data)) := by
  cases h with
  | refused => exact .inl (raiseBusError_mem ..)
  | answered => exact .inl rfl
  | illegal => exact .inl rfl
  | issued => exact .inl (startCommand_mem ..)
  | wroteInLen => exact .inl rfl
  | wroteIrqEn => exact .inl rfl
  | wroteIrqPend => exact .inl rfl
  | wroteInBuf hd hb h1 h2 => exact .inr ⟨hd, hb, h1, h2, rfl⟩
  | ignored => exact .inl rfl

/-- Every step that answers a next state has one of the four outcomes for the memory. -/
theorem step_memoryOutcome {s u : State} (h : step s = .next u) : MemoryOutcome s u := by
  obtain ⟨t, rest, hs, ho⟩ | ⟨rest, -, he⟩ | ⟨rest, hs, -⟩ | ⟨-, -, rfl⟩ := step_cases h
  · obtain hm | ⟨hd, hb, h1, h2, hm⟩ := ho.mem_cases
    · exact .kept hm
    · exact .hostStore t (by rw [hs]; rfl) hd hb h1 h2 hm
  · obtain ⟨-, rfl⟩ | ⟨hb, i, -, rfl⟩ := engineStep_next he
    · exact .kept rfl
    · exact .completed hb _ (fun hi => (hi.beginStep rest).length_result_le hb i _) rfl rfl rfl rfl
  · exact .reset (by rw [hs]; rfl)
  · exact .kept rfl

/-- Settles O49: a completion stores from OUT_BUF on, so below it only the host's stores are left. -/
theorem inBufWrittenOnlyByHost : Obligations.InBufWrittenOnlyByHost := by
  intro s u a hstep ha hne
  cases step_memoryOutcome hstep with
  | kept hm => exact absurd (by rw [hm]) hne
  | hostStore t hs hd hb _ _ hm =>
    refine .inl ⟨t, hs, hd, hb, ?_⟩
    by_contra hout
    exact hne (by rw [hm, Memory.read_store_outside (by rw [length_bytesOfWord]; omega)])
  | completed _ _ _ _ _ _ hm =>
    have hout : a < outBufBase := ha
    exact absurd (by rw [hm, Memory.read_store_outside (.inl hout)]) hne
  | reset hs => exact .inr hs

/-- Settles O50: for a legal IN_CAP the host's stores end below OUT_BUF, and a completion stores COUNT bytes. -/
theorem outBufWrittenOnlyByCompletion : Obligations.OutBufWrittenOnlyByCompletion := by
  intro s u a hinv hstep ha hne
  cases step_memoryOutcome hstep with
  | kept hm => exact absurd (by rw [hm]) hne
  | hostStore t _ _ _ _ h2 hm =>
    obtain ⟨-, hcap⟩ := legal_bounds hinv.cfgLegal
    have hend : t.off.toNat + t.size.bytes ≤ a := by rw [inBufBase] at h2; omega
    exact absurd (by rw [hm, Memory.read_store_outside (.inr (by rwa [length_bytesOfWord]))]) hne
  | completed hb r hr hu hd hc hm =>
    refine .inl ⟨hb, hu, hd, ?_⟩
    rw [hc, toNat_count_of_le hinv.cfgLegal (hr hinv)]
    by_contra hlt
    have hout : outBufBase + r.length ≤ a := not_lt.mp hlt
    exact hne (by rw [hm, Memory.read_store_outside (.inr hout)])
  | reset hs => exact .inr hs

end Sys2Proof.Machine

/-! ## Proofs: writes to the writable registers (44_host_access.md R110) -/

namespace Sys2Proof.Machine

/-- An aligned word of the register region passes the checks unless it is interlocked (R107). -/
theorem busCheck_registers {s : State} {d : Dir} {a : Nat} (ha : a % 4 = 0) (hle : a + 4 ≤ 0x1C)
    (hi : interlocked s d .registers a = false) : busCheck s d a 4 = .pass .registers := by
  simp [busCheck, regionOf_of_le hle, sizeAligned, ha, hi]

/-- A step that is an aligned register write, not interlocked, writes that register and answers OKAY (R110). -/
theorem step_register_write {s : State} {rest : List Event} {o : Offset} {v : Word}
    (hs : s.schedule = .transaction (.wr .four o v) :: rest) (ho : o.toNat % 4 = 0) (hle : o.toNat + 4 ≤ 0x1C)
    (hi : interlocked s .write .registers o.toNat = false) :
    step s = writeRegister (registerAt o.toNat) v (answerWrite (beginStep rest s)) := by
  have hc : busCheck (beginStep rest s) .write o.toNat 4 = .pass .registers := busCheck_registers ho hle hi
  simp only [step_of_cons hs, takeEvent, transact, Transaction.wr, Size.bytes, hc, writeRegion]

/-- Settles O40: IN_LEN is interlocked while BUSY alone, IRQ_EN and IRQ_PEND never (R108). -/
theorem writableRegistersTakeWrites : Obligations.WritableRegistersTakeWrites := by
  intro s rest v
  refine ⟨fun hb hs => ?_, fun hs => ?_, fun hs => ?_⟩
  · have hi : interlocked s .write .registers 0x00008 = false := by simp [interlocked, hb]
    have hv : v.setWidth 17 = BitVec.ofNat 17 (v.toNat % 131072) := by
      apply BitVec.eq_of_toNat_eq
      simp
    rw [step_register_write hs rfl (by decide) hi, ← hv]
    rfl
  · have hi : interlocked s .write .registers 0x00010 = false := Bool.and_false _
    rw [step_register_write hs rfl (by decide) hi]
    rfl
  · have hi : interlocked s .write .registers 0x00014 = false := Bool.and_false _
    have hclear : ∀ p b : Bool, (p && !b) = if b then false else p := by decide
    rw [step_register_write hs rfl (by decide) hi, ← hclear, ← hclear]
    rfl

end Sys2Proof.Machine

/-! ## Proofs: the address map (20_memory.md R33) -/

namespace Sys2Proof.Machine

theorem Window.holds_iff {w : Window} {a n : Nat} : w.holds a n = true ↔ w.base ≤ a ∧ a + n ≤ w.base + w.size := by
  simp [Window.holds]

/-- No two rows of the map name the same region (R33). -/
theorem addressMap_eq_of_region {p : Config.Params} {w v : Window} (hw : w ∈ addressMap p) (hv : v ∈ addressMap p)
    (h : w.region = v.region) : w = v := by
  have hnodup : ((addressMap p).map Window.region).Nodup := by simp [addressMap]
  exact List.inj_on_of_nodup_map hnodup hw hv h

/-- No two rows of the map hold the same transaction. The one row whose end the map leaves open is IN_BUF: either it
ends below OUT_BUF, or the transaction starts there. -/
theorem addressMap_eq_of_holds {p : Config.Params} {a n : Nat} (hn : 0 < n) (hl : a < outBufBase ∨ p.inCap ≤ 0x10000)
    {w v : Window} (hw : w ∈ addressMap p) (hv : v ∈ addressMap p) (h : w.holds a n = true ∧ v.holds a n = true) :
    w = v := by
  have hsymm : Std.Symm fun w v : Window => ¬ (w.holds a n = true ∧ v.holds a n = true) :=
    ⟨fun _ _ h hs => h hs.symm⟩
  have hpair : (addressMap p).Pairwise fun w v => ¬ (w.holds a n = true ∧ v.holds a n = true) := by
    simp only [addressMap, List.pairwise_cons, List.mem_cons, List.not_mem_nil, or_false, forall_eq_or_imp, forall_eq,
      Window.holds_iff, inBufBase, outBufBase] at hl ⊢
    refine ⟨?_, ?_, ?_, ?_, ?_, ?_, nofun, List.Pairwise.nil⟩ <;> omega
  by_contra hne
  exact hpair.forall hw hv hne h

/-- A transaction that a row of the map holds lies in that row's region, whichever row it is. -/
theorem regionOf_of_holds {p : Config.Params} {a n : Nat} (hn : 0 < n) (hl : a < outBufBase ∨ p.inCap ≤ 0x10000)
    {w : Window} (hw : w ∈ addressMap p) (h : w.holds a n = true) : regionOf p a n = some w.region := by
  rw [regionOf, Option.map_eq_some_iff]
  cases hf : (addressMap p).find? fun w => w.holds a n with
  | none => exact absurd h (List.find?_eq_none.mp hf w hw)
  | some v =>
    have hv : v.holds a n = true := List.find?_some (p := fun w => Window.holds w a n) hf
    exact ⟨v, rfl, congrArg _ (addressMap_eq_of_holds hn hl (List.mem_of_find?_eq_some hf) hw ⟨hv, h⟩)⟩

/-- Under a legal IN_CAP, a transaction lies in a row's region exactly when the row's bounds hold it. -/
theorem regionOf_iff {p : Config.Params} (hp : p.legal = true) {a n : Nat} (hn : 0 < n) {w : Window}
    (hw : w ∈ addressMap p) : regionOf p a n = some w.region ↔ w.base ≤ a ∧ a + n ≤ w.base + w.size := by
  constructor
  · intro h
    obtain ⟨v, hv, hr, hbounds⟩ := regionOf_some h
    rwa [addressMap_eq_of_region hv hw hr] at hbounds
  · intro h
    obtain ⟨-, hcap⟩ := legal_bounds hp
    exact regionOf_of_holds hn (.inr (by omega)) hw (Window.holds_iff.mpr h)

/-- Settles O32, a row of the map at a time. -/
theorem addressMapRegions : Obligations.AddressMapRegions := by
  intro p a n hp hn
  have hrow : ∀ w ∈ addressMap p, (regionOf p a n = some w.region ↔ w.base ≤ a ∧ a + n ≤ w.base + w.size) :=
    fun _ => regionOf_iff hp hn
  simp only [addressMap, List.mem_cons, List.not_mem_nil, or_false, forall_eq_or_imp, forall_eq] at hrow
  simpa [inBufBase, outBufBase, Config.Params.outCap] using hrow

end Sys2Proof.Machine

/-! ## Proofs: the host's reads (44_host_access.md R109) -/

namespace Sys2Proof.Machine

/-! ### The step of a transaction, by what its checks answer -/

/-- A mapped, aligned transaction that is not interlocked passes the checks (R107). -/
theorem busCheck_of_regionOf {s : State} {d : Dir} {a n : Nat} {r : Region} (hr : regionOf s.cfg a n = some r)
    (ha : sizeAligned r a n = true) (hi : interlocked s d r a = false) : busCheck s d a n = .pass r := by
  simp [busCheck, hr, ha, hi]

section
variable {s : State} {rest : List Event} {t : Transaction} (hs : s.schedule = .transaction t :: rest)
include hs

/-- A transaction that its checks refuse is answered with the bus error (R106). -/
theorem step_refused {k : BusResponse} (hc : busCheck s t.dir t.off.toNat t.size.bytes = .busError k) :
    step s = .next (raiseBusError t.dir k (beginStep rest s)) := by
  simp [step_of_cons hs, takeEvent, transact, hc]

/-- A read that passes its checks is answered with the data (R109). -/
theorem step_read {r : Region} (hd : t.dir = .read) (hc : busCheck s .read t.off.toNat t.size.bytes = .pass r) :
    step s = .next (answerRead r t.off.toNat t.size.bytes (beginStep rest s)) := by
  simp [step_of_cons hs, takeEvent, transact, hd, hc]

/-- A write that passes its checks is answered OKAY and written to its region (R110). -/
theorem step_write {r : Region} (hd : t.dir = .write) (hc : busCheck s .write t.off.toNat t.size.bytes = .pass r) :
    step s = writeRegion r t.off.toNat t.size.bytes t.data (answerWrite (beginStep rest s)) := by
  simp [step_of_cons hs, takeEvent, transact, hd, hc]

end

/-- Settles O36: a refused read and an answered one both change the response alone. -/
theorem readsHaveNoSideEffect : Obligations.ReadsHaveNoSideEffect := by
  intro s t rest hd hs
  cases hc : busCheck s .read t.off.toNat t.size.bytes with
  | busError k =>
    refine ⟨⟨k, some 0⟩, ?_⟩
    rw [step_refused hs (hd ▸ hc), hd]
    rfl
  | pass r => exact ⟨_, step_read hs hd hc⟩

/-! ### The data of a read -/

/-- Above its bytes, a little-endian value is 0 (20_memory.md R42, R106). -/
theorem toNat_wordOfBytes_lt (bs : List Byte) : (wordOfBytes bs).toNat < 2 ^ (8 * bs.length) := by
  apply Nat.lt_pow_two_of_testBit
  intro i hi
  rw [BitVec.testBit_toNat]
  by_cases h : i < 32
  · rw [getLsbD_wordOfBytes bs i h, List.getD_eq_default _ _ (by omega)]
    exact BitVec.getLsbD_zero
  · exact BitVec.getLsbD_of_ge _ _ (by omega)

/-- Settles O39: byte k of a read is byte k of the little-endian value that it reads. -/
theorem readDataLittleEndian : Obligations.ReadDataLittleEndian := by
  intro s r a n hn
  refine ⟨fun k hk => ?_, ?_⟩
  · rw [memRead, extractLsb'_wordOfBytes _ k (by omega)]
    simp [hk]
  · simpa [memRead] using toNat_wordOfBytes_lt ((List.range n).map fun k => byteAt s r (a + k))

/-- A byte read returns the byte (R42). -/
theorem memRead_one (s : State) (r : Region) (a : Nat) : memRead s r a 1 = (byteAt s r a).setWidth 32 := by
  simp [memRead, wordOfBytes]

/-! ### The ROM windows -/

/-- A byte read inside a row of the map other than the registers and OUT_BUF is never refused (R107, R108): BUSY or
not, it returns the row's byte. -/
theorem step_byteRead {s : State} {rest : List Event} {r : Region} {base size i : Nat} {b : Byte}
    (hw : ⟨r, base, size⟩ ∈ addressMap s.cfg) (hreg : r ≠ .registers) (hout : r ≠ .outBuf) (hi : i < size)
    (hl : base + size ≤ outBufBase) (hb : byteAt (beginStep rest s) r (base + i) = b)
    (hs : s.schedule = .transaction (.rd .one (BitVec.ofNat 18 (base + i))) :: rest) :
    step s = .next { s with
      schedule := rest, draws := s.draws + 1, resp := some ⟨.okay, some (b.setWidth 32)⟩ } := by
  have hoff : (BitVec.ofNat 18 (base + i)).toNat = base + i :=
    Nat.mod_eq_of_lt (by rw [outBufBase] at hl; omega)
  have hc : busCheck s .read (base + i) 1 = .pass r := by
    refine busCheck_of_regionOf ?_ ?_ ?_
    · exact regionOf_of_holds Nat.one_pos (.inl (by omega)) hw (Window.holds_iff.mpr ⟨by simp, by simp; omega⟩)
    · cases r <;> simp_all [sizeAligned, Nat.mod_one]
    · cases r <;> simp_all [interlocked, touchesCommand]
  rw [step_read hs rfl (r := r) (by rwa [← hoff] at hc)]
  simp only [answerRead, Transaction.rd, Size.bytes, hoff, memRead_one, hb]
  rfl

/-- The byte of an alphabet window as read data: the ROM entry up to the padding symbol, then 0 (20_memory.md R35). -/
theorem setWidth_alphaWindowByte (a : Alphabet) (i : Nat) :
    (alphaWindowByte a i).setWidth 32 = if i ≤ 64 then (encSym a i).setWidth 32 else 0 := by
  unfold alphaWindowByte
  split <;> rfl

/-- Settles O38, a ROM window at a time. -/
theorem romWindowReads : Obligations.RomWindowReads := by
  intro s rest a i
  refine ⟨fun hi hs => ?_, fun hi hs => ?_⟩
  · rw [← setWidth_alphaWindowByte]
    cases a with
    | std =>
      exact step_byteRead (r := .alphaStd) (base := 0x100) (size := 0x80) (by simp [addressMap]) nofun nofun hi
        (by decide) (by simp [byteAt]) hs
    | url =>
      exact step_byteRead (r := .alphaUrl) (base := 0x180) (size := 0x80) (by simp [addressMap]) nofun nofun hi
        (by decide) (by simp [byteAt]) hs
  · rw [← decWindowByte]
    cases a with
    | std =>
      exact step_byteRead (r := .decStd) (base := 0x200) (size := 0x100) (by simp [addressMap]) nofun nofun hi
        (by decide) (by simp [byteAt]) hs
    | url =>
      exact step_byteRead (r := .decUrl) (base := 0x300) (size := 0x100) (by simp [addressMap]) nofun nofun hi
        (by decide) (by simp [byteAt]) hs

end Sys2Proof.Machine

/-! ## Proofs: a store to IN_BUF and the read after it (20_memory.md R37, R42) -/

namespace Sys2Proof.Machine

/-- IN_BUF starts at a multiple of every transaction size, so an index's alignment is its offset's (R41). -/
theorem inBufBase_add_mod_size (size : Size) (i : Nat) : (inBufBase + i) % size.bytes = i % size.bytes := by
  cases size <;> simp [inBufBase, Size.bytes] <;> omega

/-- While idle, an aligned transaction inside IN_BUF passes its checks (44_host_access.md R107, R108). -/
theorem busCheck_inBuf {s : State} (hp : s.cfg.legal = true) (hb : s.busy = false) (d : Dir) {size : Size} {i : Nat}
    (ha : i % size.bytes = 0) (hi : i + size.bytes ≤ s.cfg.inCap) :
    busCheck s d (inBufBase + i) size.bytes = .pass .inBuf := by
  have hn : 0 < size.bytes := by cases size <;> decide
  refine busCheck_of_regionOf ?_ ?_ ?_
  · exact (regionOf_iff hp hn (w := ⟨.inBuf, inBufBase, s.cfg.inCap⟩) (by simp [addressMap])).mpr
      ⟨by simp, by simp; omega⟩
  · simp [sizeAligned, inBufBase_add_mod_size, ha]
  · simp [interlocked, hb]

/-- The block offset of an index inside IN_BUF fits the offset's 18 bits. -/
theorem toNat_inBuf_offset {p : Config.Params} (hp : p.legal = true) {i : Nat} (hi : i ≤ p.inCap) :
    (BitVec.ofNat 18 (inBufBase + i)).toNat = inBufBase + i := by
  obtain ⟨-, hcap⟩ := legal_bounds hp
  exact Nat.mod_eq_of_lt (by rw [inBufBase]; omega)

section
variable {s : State} {rest : List Event} {size : Size} {i : Nat} (hp : s.cfg.legal = true) (hb : s.busy = false)
  (ha : i % size.bytes = 0) (hi : i + size.bytes ≤ s.cfg.inCap)
include hp hb ha hi

/-- While idle, an aligned write inside IN_BUF stores its bytes (R110). -/
theorem step_inBuf_write {v : Word}
    (hs : s.schedule = .transaction (.wr size (BitVec.ofNat 18 (inBufBase + i)) v) :: rest) :
    step s = .next (memWrite (inBufBase + i) size.bytes v (answerWrite (beginStep rest s))) := by
  have hoff := toNat_inBuf_offset hp (Nat.le_of_add_right_le hi)
  have hc := busCheck_inBuf hp hb .write ha hi
  rw [← hoff] at hc ⊢
  exact step_write hs rfl hc

/-- While idle, an aligned read inside IN_BUF is answered with its bytes (R109). -/
theorem step_inBuf_read (hs : s.schedule = .transaction (.rd size (BitVec.ofNat 18 (inBufBase + i))) :: rest) :
    step s = .next (answerRead .inBuf (inBufBase + i) size.bytes (beginStep rest s)) := by
  have hoff := toNat_inBuf_offset hp (Nat.le_of_add_right_le hi)
  have hc := busCheck_inBuf hp hb .read ha hi
  rw [← hoff] at hc ⊢
  exact step_read hs rfl hc

end

/-- A read of the IN_BUF bytes that a store has just put there returns the low bytes of the value stored. -/
theorem memRead_of_stored {s : State} {m : Memory} {a n : Nat} {v : Word}
    (h : s.mem = m.store a (bytesOfWord n v)) :
    memRead s .inBuf a n = BitVec.ofNat 32 (v.toNat % 2 ^ (8 * n)) := by
  have hbytes : (List.range n).map (fun k => byteAt s .inBuf (a + k)) = bytesOfWord n v := by
    refine List.map_congr_left fun k hk => bufferByte_of_read ?_
    have hk : k < (bytesOfWord n v).length := by simpa using hk
    rw [h, Memory.read_store_inside m hk, getElem_bytesOfWord]
  rw [memRead, hbytes, wordOfBytes_bytesOfWord]

/-- Settles O42: the write stores, and the read that follows finds what it stored. -/
theorem inBufStoreThenLoad : Obligations.InBufStoreThenLoad := by
  intro s rest size i v hp hb ha hi hs
  refine ⟨s.mem.store (inBufBase + i) (bytesOfWord size.bytes v), ?_, fun k hk => ?_, fun a hout => ?_⟩
  · calc run 2 s = run 1 _ := run_succ 1 (step_inBuf_write hp hb ha hi hs)
      _ = run 0 _ := run_succ 0 (step_inBuf_read (rest := rest) hp hb ha hi rfl)
      _ = _ := by rw [run_zero, answerRead, memRead_of_stored (m := s.mem) (v := v) rfl]; rfl
  · have hk : k < (bytesOfWord size.bytes v).length := by rwa [length_bytesOfWord]
    exact (Memory.read_store_inside s.mem hk).trans (congrArg some (getElem_bytesOfWord ..))
  · exact Memory.read_store_outside (by rwa [length_bytesOfWord])

end Sys2Proof.Machine

/-! ## Proofs: the command words (30_encoding.md R54 to R56) -/

namespace Sys2Proof

/-! ### What the decoder answers -/

/-- The decoder accepts the fields of a command (R54). -/
@[simp] theorem decodeFields_fields (i : Instr) : decodeFields i.fields = .command i := by
  cases i <;> rfl

/-- The decoder accepts the word of a command (R54). -/
@[simp] theorem decodeWord_encode (i : Instr) : decodeWord (encode i) = .command i := by
  rw [decodeWord, encode, fieldsOfWord_wordOfFields, decodeFields_fields]

theorem decodeWord_eq_command_iff {w : Word} {i : Instr} : decodeWord w = .command i ↔ w = encode i :=
  ⟨eq_encode_of_decodeWord, fun h => h ▸ decodeWord_encode i⟩

/-- The first check of R56. -/
theorem decodeFields_of_rsvd_ne {f : CommandFields} (h : f.rsvd ≠ 0) : decodeFields f = .reject .reservedBits := by
  rw [decodeFields, if_pos (by simpa [CommandFields.reservedZero] using h)]

/-- The second check of R56. -/
theorem decodeFields_of_encode_strip (url : Bool) : decodeFields ⟨0, true, url, false⟩ = .reject .encodeWithStrip := by
  cases url <;> rfl

/-- The decoder rejects by one of the two checks of R56, and each rejects for its own reason. -/
theorem decodeFields_reject_cases {f : CommandFields} {r : DecodeReject} (h : decodeFields f = .reject r) :
    (r = .reservedBits ∧ f.rsvd ≠ 0) ∨ (r = .encodeWithStrip ∧ ∃ url, f = ⟨0, true, url, false⟩) := by
  by_cases hr : f.rsvd = 0
  · obtain ⟨rsvd, ignws, url, dir⟩ := f
    obtain rfl : rsvd = 0 := hr
    -- dir and ignws decide; with both checks passed, the answer is a command
    cases dir with
    | true => cases ignws <;> cases url <;> cases h
    | false =>
      cases ignws with
      | true =>
        rw [decodeFields_of_encode_strip] at h
        cases h
        exact .inr ⟨rfl, url, rfl⟩
      | false => cases url <;> cases h
  · rw [decodeFields_of_rsvd_ne hr] at h
    cases h
    exact .inl ⟨rfl, hr⟩

/-- A word has given fields exactly when it is their word (R52). -/
theorem fieldsOfWord_eq_iff {w : Word} {f : CommandFields} : fieldsOfWord w = f ↔ w = wordOfFields f :=
  ⟨fun h => h ▸ (wordOfFields_fieldsOfWord w).symm, fun h => h ▸ fieldsOfWord_wordOfFields f⟩

/-- The two words with RSVD = 0, IGNWS = 1 and DIR = 0 (R55). -/
theorem fieldsOfWord_encode_strip_iff {w : Word} :
    (∃ url, fieldsOfWord w = ⟨0, true, url, false⟩) ↔ w = 0x00000004 ∨ w = 0x00000006 := by
  simp only [fieldsOfWord_eq_iff, Bool.exists_bool]
  rfl

theorem decodeWord_eq_reservedBits_iff {w : Word} :
    decodeWord w = .reject .reservedBits ↔ w.extractLsb' 3 29 ≠ 0 := by
  refine ⟨fun h => ?_, fun h => decodeFields_of_rsvd_ne (f := fieldsOfWord w) h⟩
  obtain ⟨-, hr⟩ | ⟨hr, -⟩ := decodeFields_reject_cases h
  · exact hr
  · cases hr

theorem decodeWord_eq_encodeWithStrip_iff {w : Word} :
    decodeWord w = .reject .encodeWithStrip ↔ w = 0x00000004 ∨ w = 0x00000006 := by
  rw [← fieldsOfWord_encode_strip_iff]
  constructor
  · intro h
    obtain ⟨hr, -⟩ | ⟨-, hf⟩ := decodeFields_reject_cases h
    · cases hr
    · exact hf
  · rintro ⟨url, hf⟩
    rw [decodeWord, hf, decodeFields_of_encode_strip]

/-- Truncation is a reason to reject bytes, never a whole word. -/
theorem decodeWord_ne_truncated (w : Word) : decodeWord w ≠ .reject .truncated := by
  intro h
  obtain ⟨hr, -⟩ | ⟨hr, -⟩ := decodeFields_reject_cases h
  · cases hr
  · cases hr

/-! ### On bytes -/

/-- The decoder reads a legal word from its bytes and leaves the bytes after it (20_memory.md R40). -/
theorem decodeBytes_bytesOfWord_append {w : Word} {i : Instr} (h : decodeWord w = .command i) (rest : List Byte) :
    decodeBytes (bytesOfWord 4 w ++ rest) = .command i rest := by
  have hw : wordOfBytes (bytesOfWord 4 w) = w := by
    rw [wordOfBytes_bytesOfWord, Nat.mod_eq_of_lt w.isLt, BitVec.ofNat_toNat, BitVec.setWidth_eq]
  have hbytes : bytesOfWord 4 w =
      [w.extractLsb' 0 8, w.extractLsb' 8 8, w.extractLsb' 16 8, w.extractLsb' 24 8] := rfl
  rw [hbytes] at hw ⊢
  simp only [List.cons_append, List.nil_append, decodeBytes, hw, h]

/-- Bytes from which the decoder reads a command begin with the four bytes of a word it accepts (R52, R40). -/
theorem eq_append_of_decodeBytes {i : Instr} {bs rest : List Byte} (h : decodeBytes bs = .command i rest) :
    ∃ w, decodeWord w = .command i ∧ bs = bytesOfWord 4 w ++ rest := by
  unfold decodeBytes at h
  split at h
  · rename_i b0 b1 b2 b3 tail
    split at h
    · rename_i hw
      cases h
      exact ⟨_, hw, by rw [bytesOfWord_wordOfBytes]; rfl⟩
    · cases h
  · cases h

/-! ### The obligations -/

/-- Settles O3: the decoder reads one word from four bytes, and the word it accepts is the command's alone. -/
theorem commandBytesRoundTrip : Obligations.CommandBytesRoundTrip := by
  intro i bs rest
  constructor
  · intro h
    obtain ⟨w, hw, hbs⟩ := eq_append_of_decodeBytes h
    rw [hbs, eq_encode_of_decodeWord hw, encodeBytes]
  · rintro rfl
    exact decodeBytes_bytesOfWord_append (decodeWord_encode i) rest

/-- Settles O1: the six words are read off the fields of R54. -/
theorem commandWordSelectsExactly : Obligations.CommandWordSelectsExactly :=
  ⟨⟨rfl, rfl, rfl, rfl, rfl, rfl⟩, fun _ _ => decodeWord_eq_command_iff⟩

/-- Settles O2, a reason at a time. -/
theorem illegalWordsRejectedByName : Obligations.IllegalWordsRejectedByName :=
  fun w => ⟨decodeWord_eq_reservedBits_iff, decodeWord_eq_encodeWithStrip_iff, decodeWord_ne_truncated w⟩

/-- Settles O4: the accepted samples are command words, the rejected ones evaluate to their reasons. -/
theorem sampleWordsDecode : Obligations.SampleWordsDecode := by
  refine ⟨?_, ?_, ?_, ?_, ?_, ?_⟩
  · exact (commandBytesRoundTrip .encStd _ []).mpr rfl
  · exact (commandBytesRoundTrip .encUrl _ []).mpr rfl
  · exact (commandBytesRoundTrip .decStdWs _ []).mpr rfl
  · decide
  · decide
  · decide

end Sys2Proof

/-! ## Proofs: an illegal word, and the bytes a command reads (30_encoding.md R53, R55) -/

namespace Sys2Proof.Machine

/-- A word that is none of the six raises ILLEGAL_CMD, whatever the check that rejects it (41_command.md R71). -/
theorem issueCommand_illegal {w : Word} (hw : ∀ i, w ≠ encode i) (s : State) :
    issueCommand w s = .next (raiseCommandError .illegalCmd (acceptCommand w s)) := by
  unfold issueCommand
  cases h : decodeWord w with
  | command i => exact absurd (eq_encode_of_decodeWord h) (hw i)
  | reject r => rfl

/-- Settles O30: a CMD write passes the bus checks while idle, and the word is then refused. -/
theorem illegalWordRaisesIllegalCmd : Obligations.IllegalWordRaisesIllegalCmd := by
  intro s rest w hb hw hs
  have hi : interlocked s .write .registers 0x00000 = false := by simp [interlocked, hb]
  calc step s = issueCommand w (answerWrite (beginStep rest s)) := step_register_write hs rfl (by decide) hi
    _ = _ := issueCommand_illegal hw _

/-- A store to IN_BUF from LATCH_LEN on leaves the operand (41_command.md R74). -/
theorem operand_store_past_length (s : State) {j : Nat} (hj : s.latchLen.toNat ≤ j) (bs : List Byte) :
    operand { s with mem := s.mem.store (inBufBase + j) bs } = operand s :=
  operand_congr rfl rfl fun _ hk =>
    Memory.read_store_outside (.inl (Nat.add_lt_add_left (hk.trans_le hj) inBufBase))

/-- A command completes with the same result when bytes were stored from LATCH_LEN on (R74). -/
theorem exec_store_past_length (i : Instr) {s : State} (hb : s.busy = true) {j : Nat} (hj : s.latchLen.toNat ≤ j)
    (bs : List Byte) :
    exec i { s with mem := s.mem.store (inBufBase + j) bs } =
      .next (completeCommand (commandResult i s.cfg.substB1 (operand s))
        { s with mem := s.mem.store (inBufBase + j) bs }) := by
  rw [exec_busy i (s := { s with mem := s.mem.store (inBufBase + j) bs }) hb, operand_store_past_length s hj]

/-- A command that has completed has its result in OUT_BUF, whatever memory it started from (R74). -/
theorem completeCommand_read_result (r : List Byte) (s : State) {k : Nat} (hk : k < r.length) :
    (completeCommand r s).mem.read (outBufBase + k) = some r[k] := by
  rw [completeCommand_mem, Memory.read_store_inside s.mem hk]

/-- Settles O26: both completions have the same operand, so the same result. -/
theorem resultIgnoresBytesPastLength : Obligations.ResultIgnoresBytesPastLength := by
  intro i s t j bs hb hj ht
  rw [exec_busy i hb] at ht
  cases ht
  refine ⟨_, exec_store_past_length i hb hj bs, rfl, fun k hk => ?_⟩
  rw [completeCommand_read_result _ _ hk, completeCommand_read_result _ _ hk]

end Sys2Proof.Machine

/-! ## Proofs: the lookup tables (40_tables.md R65, R68, R70) -/

namespace Sys2Proof.Machine

/-! ### The decode table and the alphabet invert each other -/

/-- The entry of a symbol is its value (R65): the ROMs are data, so this is checked symbol by symbol. -/
theorem decEntry_encSym (a : Alphabet) : ∀ i < 64, romEntry (decRom a) (encSym a i).toNat = BitVec.ofNat 8 i := by
  cases a with
  | std => decide
  | url => decide

/-- A byte whose entry is not 0xFF is the symbol of that entry (R65), checked entry by entry. -/
theorem encSym_decEntry (a : Alphabet) : ∀ c : Byte, romEntry (decRom a) c.toNat ≠ 0xFF →
    (romEntry (decRom a) c.toNat).toNat < 64 ∧ encSym a (romEntry (decRom a) c.toNat).toNat = c := by
  cases a with
  | std => decide
  | url => decide

/-- A byte that is no symbol has the entry 0xFF (R65). -/
theorem decEntry_of_no_symbol {a : Alphabet} {c : Byte} (h : ∀ i < 64, encSym a i ≠ c) :
    romEntry (decRom a) c.toNat = 0xFF := by
  by_contra hc
  obtain ⟨hlt, heq⟩ := encSym_decEntry a c hc
  exact h _ hlt heq

/-- A function with a left inverse is injective: the 64 symbols are distinct (R65). -/
theorem encSym_injective {a : Alphabet} {i j : Nat} (hi : i < 64) (hj : j < 64) (h : encSym a i = encSym a j) :
    i = j := by
  have hv : BitVec.ofNat 8 i = BitVec.ofNat 8 j := by rw [← decEntry_encSym a i hi, h, decEntry_encSym a j hj]
  have hn := congrArg BitVec.toNat hv
  rw [BitVec.toNat_ofNat, BitVec.toNat_ofNat] at hn
  omega

/-- Settles O5: the decode table is a left inverse of the alphabet, and every entry but 0xFF comes from a symbol. -/
theorem decodeTableReversesAlphabet : Obligations.DecodeTableReversesAlphabet := by
  intro a
  refine ⟨fun i hi j hj => encSym_injective hi hj, fun c => ⟨fun i hi hc => ?_, decEntry_of_no_symbol⟩⟩
  rw [← hc, decEntry_encSym a i hi]

/-! ### Decode values -/

/-- A value below 64 has bit 7 clear, so the sign extension of R64 keeps it (R70). -/
theorem decVal_encSym (a : Alphabet) {v : Nat} (hv : v < 64) : decVal a (encSym a v) = v := by
  have hn : (BitVec.ofNat 8 v).toNat = v := Nat.mod_eq_of_lt (by omega)
  rw [decVal, decEntry_encSym a v hv, BitVec.toInt_eq_toNat_of_lt (by omega), hn]

/-- The sign extension of the entry 0xFF is -1 (R64). -/
theorem decVal_of_no_symbol {a : Alphabet} {c : Byte} (h : ∀ i < 64, encSym a i ≠ c) : decVal a c = -1 := by
  rw [decVal, decEntry_of_no_symbol h]
  rfl

/-- The padding byte is no symbol (R63). -/
theorem encSym_ne_padding (a : Alphabet) : ∀ v < 64, encSym a v ≠ encSym a 64 := by
  cases a with
  | std => decide
  | url => decide

/-- Settles O6. -/
theorem symbolValueRoundTrip : Obligations.SymbolValueRoundTrip :=
  fun a => ⟨fun _ hv => decVal_encSym a hv, decVal_of_no_symbol (encSym_ne_padding a)⟩

/-! ### The two alphabets side by side -/

/-- Below 62 the two alphabets agree (R61, R62). -/
theorem encSym_std_eq_url : ∀ i < 62, encSym .std i = encSym .url i := by decide

/-- Away from the four bytes at the values 62 and 63, a byte is the symbol of one value in both alphabets (R68). -/
theorem encSym_std_eq_iff_url {c : Byte} (hp : c ≠ 0x2B) (hs : c ≠ 0x2F) (hm : c ≠ 0x2D) (hu : c ≠ 0x5F) {i : Nat}
    (hi : i < 64) : encSym .std i = c ↔ encSym .url i = c := by
  obtain h | rfl | rfl : i < 62 ∨ i = 62 ∨ i = 63 := by omega
  · rw [encSym_std_eq_url i h]
  · exact iff_of_false hp.symm hm.symm
  · exact iff_of_false hs.symm hu.symm

/-- Settles O7: any other byte is the symbol of the same value in both alphabets, or of none in either. -/
theorem decodeTablesDifferOnFourBytes : Obligations.DecodeTablesDifferOnFourBytes := by
  refine ⟨by decide, by decide, fun c hp hs hm hu => ?_⟩
  by_cases h : ∃ i < 64, encSym .std i = c
  · obtain ⟨i, hi, hstd⟩ := h
    have hurl : encSym .url i = c := (encSym_std_eq_iff_url hp hs hm hu hi).mp hstd
    calc decVal .std c = i := by rw [← hstd, decVal_encSym .std hi]
      _ = decVal .url c := by rw [← hurl, decVal_encSym .url hi]
  · have hstd : ∀ i < 64, encSym .std i ≠ c := fun i hi hc => h ⟨i, hi, hc⟩
    have hurl : ∀ i < 64, encSym .url i ≠ c := fun i hi hc =>
      hstd i hi ((encSym_std_eq_iff_url hp hs hm hu hi).mpr hc)
    rw [decVal_of_no_symbol hstd, decVal_of_no_symbol hurl]

end Sys2Proof.Machine

/-! ## Proofs: the start and the completion of a command (41_command.md R72 to R74) -/

namespace Sys2Proof.Machine

/-! ### Completion -/

/-- Settles O21: both commands complete, and the length of the text depends on LATCH_LEN alone. -/
theorem encodeCommandsComplete : Obligations.EncodeCommandsComplete := by
  intro s hb
  have hlen : ∀ a, (base64Encode a (operand s)).length = 4 * ((s.latchLen.toNat + 2) / 3) := fun a => by
    rw [length_base64Encode, length_operand]
  constructor
  · rw [← hlen .std]
    exact exec_busy .encStd hb
  · rw [← hlen .url]
    exact exec_busy .encUrl hb

/-- Settles O22: each decode command's entry in the table of R75 is the decoding of its operand. -/
theorem decodeCommandsComplete : Obligations.DecodeCommandsComplete :=
  fun _ hb => ⟨exec_busy .decStd hb, exec_busy .decUrl hb, exec_busy .decStdWs hb, exec_busy .decUrlWs hb⟩

/-- A command that has completed leaves every byte outside its result, whatever its operand was (R74). -/
theorem completeCommand_read_outside {r : List Byte} (s : State) {a : Nat}
    (ha : a < outBufBase ∨ outBufBase + r.length ≤ a) : (completeCommand r s).mem.read a = s.mem.read a := by
  rw [completeCommand_mem, Memory.read_store_outside ha]

/-- Settles O25: a completion stores the result from OUT_BUF on and writes four registers. -/
theorem completionFrame : Obligations.CompletionFrame := by
  intro i s t hb ht
  rw [exec_busy i hb] at ht
  cases ht
  exact ⟨fun _ hk => completeCommand_read_result _ s hk, fun _ ha => completeCommand_read_outside s ha,
    rfl, rfl, rfl, rfl, rfl, rfl, rfl, rfl, rfl, rfl, rfl, rfl, rfl⟩

/-! ### Start -/

/-- Settles O23: the length check passes. -/
theorem commandsStartWhenIdle : Obligations.CommandsStartWhenIdle := by
  intro i s hb hlen
  rw [exec_idle i hb]
  obtain ⟨-, hs⟩ | ⟨hlt, -⟩ := startCommand_cases (opcode i) s
  · rw [hs]; rfl
  · exact absurd hlen (not_le.mpr hlt)

/-- Settles O24: the length check fails. -/
theorem tooLongInputRaisesLenRange : Obligations.TooLongInputRaisesLenRange := by
  intro i s hb hlen
  rw [exec_idle i hb]
  obtain ⟨hle, -⟩ | ⟨-, hs⟩ := startCommand_cases (opcode i) s
  · exact absurd hlen (not_lt.mpr hle)
  · rw [hs]; rfl

end Sys2Proof.Machine

/-! ## Proofs: the steps that run a command (41_command.md R71, R74, R75) -/

namespace Sys2Proof.Machine

/-! ### The CMD write -/

/-- A legal word runs its command on the state that has accepted it (R72). -/
theorem issueCommand_legal {w : Word} {i : Instr} (hw : decodeWord w = .command i) (s : State) :
    issueCommand w s = exec i (acceptCommand w s) := by
  rw [issueCommand, hw]

/-- Settles O27: while idle a CMD write is not interlocked, so it reaches the decoder. -/
theorem cmdWriteRunsDecodedCommand : Obligations.CmdWriteRunsDecodedCommand := by
  intro s rest w i hb hw hs
  have hi : interlocked s .write .registers 0x00000 = false := by simp [interlocked, hb]
  calc step s = issueCommand w (answerWrite (beginStep rest s)) := step_register_write hs rfl (by decide) hi
    _ = exec i (acceptCommand w (answerWrite (beginStep rest s))) := issueCommand_legal hw _

/-- A 32-bit word is placed as it is (log 2). -/
theorem withFetchWord_toNat (s : State) (w : Word) : s.withFetchWord 32 w.toNat = placeCommand w s := by
  rw [State.withFetchWord, Nat.mod_eq_of_lt w.isLt, BitVec.ofNat_toNat, BitVec.setWidth_eq]

/-- Settles O28: the placed word is the CMD write of a legal word on an idle engine. -/
theorem placedWordRunsNext : Obligations.PlacedWordRunsNext := by
  intro s i
  rw [withFetchWord_toNat]
  exact cmdWriteRunsDecodedCommand _ s.schedule _ i rfl (decodeWord_encode i) rfl

/-! ### The engine's step -/

/-- The bits of a command's word above LATCH_OP are 0 (30_encoding.md R52, R54). -/
theorem setWidth_opcode (i : Instr) : (opcode i).setWidth 32 = encode i := by
  cases i <;> rfl

/-- A BUSY engine runs the command that LATCH_OP names (R75). -/
theorem engineStep_of_latchOp {s : State} {i : Instr} (hb : s.busy = true) (hop : s.latchOp = opcode i) :
    engineStep s = exec i s := by
  simp [engineStep, hb, hop, setWidth_opcode]

/-- The engine moves on its turn, and a BUSY engine also when no event is left (R77, log 3). -/
theorem step_engine {s : State} {rest : List Event} (hb : s.busy = true)
    (hs : s.schedule = .engineTurn :: rest ∨ (s.schedule = [] ∧ rest = [])) :
    step s = engineStep (beginStep rest s) := by
  obtain hs | ⟨hs, rfl⟩ := hs
  · exact step_of_cons hs
  · simp only [step, nextStep, hs, hb, if_true]

/-- Settles O29: LATCH_OP determines the command's word. -/
theorem engineStepRunsLatchedCommand : Obligations.EngineStepRunsLatchedCommand := by
  intro s rest i hb hop hs
  rw [step_engine hb hs]
  exact engineStep_of_latchOp hb hop

end Sys2Proof.Machine

/-! ## Proofs: who clears BUSY, and that it is cleared (41_command.md R74, R77) -/

namespace Sys2Proof.Machine

/-! ### What a transaction does to BUSY and to the schedule -/

/-- No transaction clears BUSY: the one that may write it, a CMD write, is refused on a BUSY engine (R108). -/
theorem TransactOutcome.busy_of_busy {t : Transaction} {s u : State} (h : TransactOutcome t s u) (hb : s.busy = true) :
    u.busy = true := by
  cases h with
  | refused => rwa [raiseBusError_busy]
  | answered => exact hb
  | illegal _ _ hidle => exact absurd hb (by simp [hidle])
  | issued _ _ hidle => exact absurd hb (by simp [hidle])
  | wroteInLen => exact hb
  | wroteIrqEn => exact hb
  | wroteIrqPend => exact hb
  | wroteInBuf => exact hb
  | ignored => exact hb

/-- No transaction changes which events are left (log 1). -/
theorem TransactOutcome.schedule_eq {t : Transaction} {s u : State} (h : TransactOutcome t s u) :
    u.schedule = s.schedule := by
  cases h with
  | refused => exact raiseBusError_schedule ..
  | answered => rfl
  | illegal => rfl
  | issued => exact startCommand_schedule ..
  | wroteInLen => rfl
  | wroteIrqEn => rfl
  | wroteIrqPend => rfl
  | wroteInBuf => rfl
  | ignored => rfl

/-- Settles O47: of the three agents, the host never clears BUSY and the engine clears it by a completion alone. -/
theorem busyClearedOnlyByCompletionOrReset : Obligations.BusyClearedOnlyByCompletionOrReset := by
  intro s u hstep hb hu
  obtain ⟨_, rest, -, ho⟩ | ⟨rest, hs, he⟩ | ⟨rest, hs, -⟩ | ⟨-, hidle, -⟩ := step_cases hstep
  · have hbusy : u.busy = true := ho.busy_of_busy hb
    exact absurd hu (by simp [hbusy])
  · obtain ⟨hidle, -⟩ | ⟨-, _, -, rfl⟩ := engineStep_next he
    · exact absurd hb (by simpa using hidle)
    · refine .inl ⟨?_, rfl, rfl⟩
      obtain hs | ⟨hs, -⟩ := hs
      · exact .inr (by rw [hs]; rfl)
      · exact .inl hs
  · exact .inr (by rw [hs]; rfl)
  · exact absurd hb (by simp [hidle])

/-! ### Completion in a bounded number of steps -/

/-- While BUSY, LATCH_OP names a command (10_state.md R29, 41_command.md R75). -/
theorem State.Inv.exists_latched {s : State} (h : s.Inv) (hb : s.busy = true) : ∃ i, s.latchOp = opcode i := by
  obtain ⟨i, hi⟩ := h.cmdLegal hb
  exact ⟨i, by rw [h.latchOp hb, hi, opcode]⟩

/-- When the engine moves, a BUSY engine completes (R74). -/
theorem State.Inv.step_completes {s : State} (h : s.Inv) (hb : s.busy = true) {rest : List Event}
    (hs : s.schedule = .engineTurn :: rest ∨ (s.schedule = [] ∧ rest = [])) :
    ∃ t, step s = .next t ∧ t.busy = false ∧ t.done = true := by
  obtain ⟨i, hi⟩ := h.exists_latched hb
  exact ⟨_, (engineStepRunsLatchedCommand s rest i hb hi hs).trans (exec_busy i hb), rfl, rfl⟩

/-- A transaction on a BUSY engine leaves it BUSY, with the events after it to come (R77). -/
theorem step_transaction_of_busy {s : State} {t : Transaction} {rest : List Event} (hb : s.busy = true)
    (hs : s.schedule = .transaction t :: rest) :
    ∃ u, step s = .next u ∧ u.busy = true ∧ u.schedule = rest := by
  obtain ⟨u, hu, ho⟩ := transact_cases t (beginStep rest s)
  exact ⟨u, (step_of_cons hs).trans hu, ho.busy_of_busy hb, ho.schedule_eq⟩

/-- Settles O56, by induction on the schedule: a transaction passes the engine on, BUSY, and any other end of the
schedule that the hypothesis allows is the engine's step. -/
theorem busyEngineCompletes : Obligations.BusyEngineCompletes := by
  intro s hinv hb hreset
  induction hs : s.schedule generalizing s with
  | nil =>
    obtain ⟨t, ht, hdone⟩ := hinv.step_completes hb (.inr ⟨hs, rfl⟩)
    exact ⟨1, t, by simp, run_succ 0 ht, hdone⟩
  | cons e rest ih =>
    cases e with
    | engineTurn =>
      obtain ⟨t, ht, hdone⟩ := hinv.step_completes hb (.inl hs)
      exact ⟨1, t, by simp, run_succ 0 ht, hdone⟩
    | resetInput => exact absurd (hreset [] rest hs) (by simp)
    | transaction x =>
      obtain ⟨u, hu, hub, hus⟩ := step_transaction_of_busy hb hs
      have hreset' : ∀ before after, u.schedule = before ++ .resetInput :: after → .engineTurn ∈ before := by
        intro before after heq
        have hmem := hreset (.transaction x :: before) after (by rw [hs, ← hus, heq, List.cons_append])
        simpa using hmem
      obtain ⟨k, t, hk, hrun, hdone⟩ := ih u (stepKeepsInvariant s u hinv hu) hub hreset' hus
      exact ⟨k + 1, t, Nat.succ_le_succ hk, (run_succ k hu).trans hrun, hdone⟩

end Sys2Proof.Machine

/-! ## Proofs: the encode function (42_encode.md R78 to R83) -/

namespace Sys2Proof.Machine

/-! ### One group as arithmetic -/

/-- Entry 64 of both alphabets is the padding symbol (40_tables.md R63). -/
@[simp] theorem encSym_sixtyFour (a : Alphabet) : encSym a 64 = paddingByte := by
  cases a <;> rfl

/-- Bits moved up by k, of which six are kept (R79, R80). -/
theorem shiftLeft_mask6_eq (v k : Nat) : (v <<< k) &&& 0x3F = v * 2 ^ k % 64 := by
  rw [mask6_eq, Nat.shiftLeft_eq]

/-- A full group does not change how many bytes trail (R78). -/
theorem length_group_cons_mod (x y z : Byte) (l : List Byte) : (x :: y :: z :: l).length % 3 = l.length % 3 :=
  Nat.add_mod_right l.length 3

/-- The four 6-bit fields of the 24-bit integer of a full group (R78). -/
theorem encodeGroup_eq (a : Alphabet) (x y z : Byte) :
    encodeGroup a x y z =
      [encSym a (x.toNat / 4), encSym a (x.toNat % 4 * 16 + y.toNat / 16),
        encSym a (y.toNat % 16 * 4 + z.toNat / 64), encSym a (z.toNat % 64)] := by
  have hx := x.isLt
  have hy := y.isLt
  have hz := z.isLt
  simp only [encodeGroup, threeBytes_eq, field_eq, List.cons.injEq, and_true]
  exact ⟨congrArg _ (by omega), congrArg _ (by omega), congrArg _ (by omega), congrArg _ (by omega)⟩

/-- The fields 15:10 and 9:4 of the 16-bit integer of two trailing bytes, and its low 4 bits moved up by 2 (R80). -/
theorem encodeTail2_eq (a : Alphabet) (x y : Byte) :
    encodeTail2 a x y =
      [encSym a (x.toNat / 4), encSym a (x.toNat % 4 * 16 + y.toNat / 16), encSym a (y.toNat % 16 * 4),
        paddingByte] := by
  have hx := x.isLt
  have hy := y.isLt
  simp only [encodeTail2, twoBytes_eq, field_eq, shiftLeft_mask6_eq, encSym_sixtyFour, List.cons.injEq, and_true]
  exact ⟨congrArg _ (by omega), congrArg _ (by omega), congrArg _ (by omega)⟩

/-- The top 6 bits of one trailing byte, and its low 2 bits moved up by 4 (R79). -/
theorem encodeTail1_eq (a : Alphabet) (x : Byte) :
    encodeTail1 a x = [encSym a (x.toNat / 4), encSym a (x.toNat % 4 * 16), paddingByte, paddingByte] := by
  have hx := x.isLt
  simp only [encodeTail1, field_eq, shiftLeft_mask6_eq, encSym_sixtyFour, List.cons.injEq, and_true]
  exact ⟨congrArg _ (by omega), congrArg _ (by omega)⟩

/-- Settles O8: each clause of the encode function, with its group as arithmetic. -/
theorem encodeGroupArithmetic : Obligations.EncodeGroupArithmetic := by
  intro a x y z rest
  refine ⟨?_, encodeTail2_eq a x y, encodeTail1_eq a x, rfl⟩
  rw [base64Encode, encodeGroup_eq]

/-! ### Length and splitting -/

/-- Settles O9: the bound is monotone in the length of the payload. -/
theorem encodedLength : Obligations.EncodedLength := by
  intro a l
  refine ⟨length_base64Encode a l, fun p h => ?_⟩
  rw [length_base64Encode, Config.Params.outCap]
  omega

/-- Settles O12, by induction on the groups of the first payload, which has no trailing bytes. -/
theorem encodeSplitsAtGroups : Obligations.EncodeSplitsAtGroups := by
  intro a l m hl
  fun_induction base64Encode a l with
  | case1 x y z rest ih =>
    rw [length_group_cons_mod] at hl
    calc base64Encode a (x :: y :: z :: (rest ++ m))
      _ = encodeGroup a x y z ++ base64Encode a (rest ++ m) := rfl
      _ = encodeGroup a x y z ++ base64Encode a rest ++ base64Encode a m := by rw [ih hl, List.append_assoc]
  | case2 => cases hl
  | case3 => cases hl
  | case4 => rfl

/-! ### The text as symbols of 6-bit values, then padding -/

/-- The 6-bit values of a payload in the order of their symbols, whatever the alphabet (R78 to R80). -/
def sixBitValues : List Byte → List Nat
  | x :: y :: z :: rest =>
    x.toNat / 4 :: (x.toNat % 4 * 16 + y.toNat / 16) :: (y.toNat % 16 * 4 + z.toNat / 64) :: z.toNat % 64 ::
      sixBitValues rest
  | [x, y] => [x.toNat / 4, x.toNat % 4 * 16 + y.toNat / 16, y.toNat % 16 * 4]
  | [x] => [x.toNat / 4, x.toNat % 4 * 16]
  | [] => []

theorem sixBitValues_lt (l : List Byte) : ∀ v ∈ sixBitValues l, v < 64 := by
  fun_induction sixBitValues l with
  | case1 x y z rest ih =>
    have hx := x.isLt
    have hy := y.isLt
    have hz := z.isLt
    simp only [List.forall_mem_cons]
    exact ⟨by omega, by omega, by omega, by omega, ih⟩
  | case2 x y =>
    have hx := x.isLt
    have hy := y.isLt
    simp only [List.forall_mem_cons]
    exact ⟨by omega, by omega, by omega, by simp⟩
  | case3 x =>
    have hx := x.isLt
    simp only [List.forall_mem_cons]
    exact ⟨by omega, by omega, by simp⟩
  | case4 => simp

/-- The text is the symbols of the payload's 6-bit values, then the padding (R82). -/
theorem base64Encode_eq_symbols_append_padding (a : Alphabet) (l : List Byte) :
    base64Encode a l =
      (sixBitValues l).map (encSym a) ++ List.replicate ((3 - l.length % 3) % 3) paddingByte := by
  fun_induction sixBitValues l with
  | case1 x y z rest ih =>
    rw [base64Encode, encodeGroup_eq, ih, length_group_cons_mod]
    rfl
  | case2 x y => exact encodeTail2_eq a x y
  | case3 x => exact encodeTail1_eq a x
  | case4 => rfl

/-- Settles O10: no symbol of a 6-bit value is the padding symbol. -/
theorem encodedPaddingShape : Obligations.EncodedPaddingShape := by
  intro a l
  refine ⟨(sixBitValues l).map (encSym a), base64Encode_eq_symbols_append_padding a l, fun b hb => ?_⟩
  obtain ⟨v, hv, rfl⟩ := List.mem_map.mp hb
  have hlt : v < 64 := sixBitValues_lt l v hv
  have hne : encSym a v ≠ paddingByte := encSym_sixtyFour a ▸ encSym_ne_padding a v hlt
  exact ⟨hne, v, hlt, rfl⟩

/-! ### The two alphabets' texts -/

/-- The URL-safe symbol that stands where the standard text holds a byte (R83). -/
def urlSymbol (b : Byte) : Byte := if b = 0x2B then 0x2D else if b = 0x2F then 0x5F else b

/-- The alphabets differ at the values 62 and 63 alone (40_tables.md R61, R62), checked symbol by symbol. -/
theorem urlSymbol_encSym_std : ∀ v < 64, urlSymbol (encSym .std v) = encSym .url v := by decide

/-- Settles O11: both texts are the symbols of the same 6-bit values, with the same padding. -/
theorem urlTextSubstitutesTwoSymbols : Obligations.UrlTextSubstitutesTwoSymbols := by
  intro l
  have hsym : (sixBitValues l).map (encSym .url) = ((sixBitValues l).map (encSym .std)).map urlSymbol := by
    rw [List.map_map]
    exact List.map_congr_left fun v hv => (urlSymbol_encSym_std v (sixBitValues_lt l v hv)).symm
  have hpad : urlSymbol paddingByte = paddingByte := by decide
  change base64Encode .url l = (base64Encode .std l).map urlSymbol
  simp only [base64Encode_eq_symbols_append_padding, List.map_append, List.map_replicate, hsym, hpad]

end Sys2Proof.Machine

/-! ## Proofs: the decode function (43_decode.md R89 to R100) -/

namespace Sys2Proof.Machine

/-! ### The three bytes of a group on unbounded integers -/

/-- The arithmetic right shift is the floor division (00_scope.md R11). -/
theorem shrInt_eq_fdiv (v : Int) (k : Nat) : shrInt v k = Int.fdiv v (2 ^ k) :=
  (Int.fdiv_eq_ediv_of_nonneg v (by positivity)).symm

/-- R92, R95. -/
theorem groupByte0_eq_formula (b0 b1 : Int) :
    groupByte0 b0 b1 = BitVec.ofInt 8 (Int.lor (b0 * 2 ^ 2) (Int.fdiv b1 (2 ^ 4))) := by
  rw [groupByte0, low8Or_eq, shrInt_eq_fdiv, shlInt, low8]

/-- R93, R95. -/
theorem groupByte1_eq_formula (b1 e2 : Int) :
    groupByte1 b1 e2 = BitVec.ofInt 8 (Int.lor (b1 * 2 ^ 4) (Int.fdiv e2 (2 ^ 2))) := by
  rw [groupByte1, low8Or_eq, shrInt_eq_fdiv, shlInt, low8]

/-- R94, R95. -/
theorem groupByte2_eq_formula (e2 e3 : Int) : groupByte2 e2 e3 = BitVec.ofInt 8 (Int.lor (e2 * 2 ^ 6) e3) := by
  rw [groupByte2, low8Or_eq, shlInt, low8]

/-! ### The three bytes of a group on natural numbers -/

/-- The two parts of Byte 0 do not overlap, so their OR is their sum (R92). -/
theorem groupByte0_natCast (e0 : Nat) {e1 : Nat} (h : e1 < 64) :
    groupByte0 e0 e1 = BitVec.ofNat 8 (e0 * 4 + e1 / 16) :=
  low8Or_of_lt e0 (e1 / 16) 2 (by omega)

/-- The two parts of Byte 1 do not overlap (R93). -/
theorem groupByte1_natCast (e1 : Nat) {e2 : Nat} (h : e2 < 64) :
    groupByte1 e1 e2 = BitVec.ofNat 8 (e1 * 16 + e2 / 4) :=
  low8Or_of_lt e1 (e2 / 4) 4 (by omega)

/-- The two parts of Byte 2 do not overlap (R94). -/
theorem groupByte2_natCast (e2 : Nat) {e3 : Nat} (h : e3 < 64) : groupByte2 e2 e3 = BitVec.ofNat 8 (e2 * 64 + e3) :=
  low8Or_of_lt e2 e3 6 h

/-- Settles O15: each byte is the sum of its two parts, of which eight bits are kept. -/
theorem validGroupBytesAreBitFields : Obligations.ValidGroupBytesAreBitFields := by
  intro e0 e1 e2 e3 h0 h1 h2 h3
  rw [groupByte0_natCast e0 h1, groupByte1_natCast e1 h2, groupByte2_natCast e2 h3]
  simp only [BitVec.toNat_ofNat]
  omega

/-! ### The second symbol substituted -/

/-- The second symbol -1 is all ones, shifted or not, so it fills Byte 0 (R92). -/
theorem groupByte0_neg_one (b0 : Int) : groupByte0 b0 (-1) = 0xFF :=
  BitVec.or_allOnes

/-- Byte 1 keeps four bits of the second symbol, in which -1 and 15 agree (R93). -/
theorem groupByte1_neg_one (e2 : Int) : groupByte1 (-1) e2 = groupByte1 (15 : Nat) e2 := rfl

/-- Settles O16, a value of SUBST_B1 at a time. -/
theorem substitutedSecondSymbol : Obligations.SubstitutedSecondSymbol := by
  intro b0 e2 hb0 he2
  have hneg : (groupByte1 (-1) e2).toNat = 0xF0 + e2 / 4 := by
    rw [groupByte1_neg_one, groupByte1_natCast 15 he2, BitVec.toNat_ofNat]
    omega
  have h0 : (groupByte0 b0 (0 : Nat)).toNat = b0 * 4 := by
    rw [groupByte0_natCast b0 (by decide), BitVec.toNat_ofNat]
    omega
  have h1 : (groupByte1 (0 : Nat) e2).toNat = e2 / 4 := by
    rw [groupByte1_natCast 0 he2, BitVec.toNat_ofNat]
    omega
  have h64 : (groupByte1 (64 : Nat) e2).toNat = e2 / 4 := by
    rw [groupByte1_natCast 64 he2, BitVec.toNat_ofNat]
    omega
  exact ⟨groupByte0_neg_one b0, hneg, h0, h1, congrArg (· ||| 4) (BitVec.ofInt_natCast 8 (b0 * 4)), h64⟩

/-! ### The output of a group, by the validity of its positions -/

/-- R89. -/
theorem secondSym_some (k e : Int) : secondSym k (some e) = if 0 ≤ e ∧ e ≤ 63 then e else k := by
  simp only [secondSym, validSym_some]

/-- A second position past the end of the input is substituted (R88, R89). -/
theorem secondSym_none (k : Int) : secondSym k none = k := rfl

/-- The second and third byte of a group that lies inside the input (R93, R94). -/
theorem groupTail_some_some (b1 v2 v3 : Int) :
    groupTail b1 (some v2) (some v3) =
      if 0 ≤ v2 ∧ v2 ≤ 63 then groupByte1 b1 v2 :: if 0 ≤ v3 ∧ v3 ≤ 63 then [groupByte2 v2 v3] else [] else [] := by
  simp only [groupTail, validSym_some, apply_ite (List.cons (groupByte1 b1 v2))]

/-- The second byte of a group whose fourth position lies past the end of the input (R93). -/
theorem groupTail_some_none (b1 v2 : Int) :
    groupTail b1 (some v2) none = if 0 ≤ v2 ∧ v2 ≤ 63 then [groupByte1 b1 v2] else [] := by
  simp only [groupTail, validSym_some]

/-- A group that ends before its third position has Byte 0 alone (R88). -/
theorem groupTail_none (b1 : Int) (e3 : Option Int) : groupTail b1 none e3 = [] := by
  cases e3 <;> rfl

/-- Settles O14: a valid byte starts a group (R91), whose bytes are the formulas of R92 to R94. -/
theorem groupDecodesByFormula : Obligations.GroupDecodesByFormula := by
  intro a k c0 c1 c2 c3 more hlo hhi
  have hvalid : validSym (some (decVal a c0)) = true := (validSym_some _).mpr ⟨hlo, hhi⟩
  obtain ⟨hfull, hthree, htwo, hone⟩ := base64Decode_cons_valid hvalid k c1 c2 c3 more
  rw [hfull, hthree, htwo, hone]
  simp only [decodeGroup, lookupSym_some, lookupSym_none, secondSym_some, secondSym_none, groupTail_some_some,
    groupTail_some_none, groupTail_none, groupByte0_eq_formula, groupByte1_eq_formula, groupByte2_eq_formula, and_self]

/-! ### Skipping, and the length of the output -/

/-- Settles O13, by induction on the run of bytes. -/
theorem invalidStartsAreSkipped : Obligations.InvalidStartsAreSkipped := by
  intro a k noise l hnoise
  induction noise with
  | nil => rfl
  | cons c cs ih =>
    obtain ⟨hc, hcs⟩ := List.forall_mem_cons.mp hnoise
    have hinvalid : validSym (some (decVal a c)) = false := Bool.eq_false_iff.mpr (mt (validSym_some _).mp hc)
    rw [List.cons_append, base64Decode_cons_invalid hinvalid, ih hcs]

/-- Settles O17: OUT_CAP is no smaller than IN_CAP. -/
theorem decodedLengthBound : Obligations.DecodedLengthBound := by
  intro a k l
  have hlen := length_base64Decode_le a k l
  refine ⟨hlen, fun p hp => ?_⟩
  rw [Config.Params.outCap]
  omega

/-! ### Decoding the text of a payload -/

/-- The padding symbol decodes to -1 (40_tables.md R70). -/
theorem decVal_padding (a : Alphabet) : decVal a paddingByte = -1 :=
  encSym_sixtyFour a ▸ (symbolValueRoundTrip a).2

/-- A 6-bit value is valid (R87). -/
theorem valid_natCast {v : Nat} (h : v < 64) : 0 ≤ (v : Int) ∧ (v : Int) ≤ 63 := by omega

/-- A symbol starts a group, in which a second symbol stands for itself: SUBST_B1 is not used. -/
theorem base64Decode_symbols {a : Alphabet} {v0 v1 : Nat} (h0 : v0 < 64) (h1 : v1 < 64) (k : Int) (c2 c3 : Byte)
    (l : List Byte) :
    base64Decode a k (encSym a v0 :: encSym a v1 :: c2 :: c3 :: l) =
      BitVec.ofNat 8 (v0 * 4 + v1 / 16) :: groupTail v1 (some (decVal a c2)) (some (decVal a c3)) ++
        base64Decode a k l := by
  have hvalid : validSym (some (decVal a (encSym a v0))) = true :=
    (validSym_some _).mpr (decVal_encSym a h0 ▸ valid_natCast h0)
  rw [(base64Decode_cons_valid hvalid k _ c2 c3 l).1]
  simp only [decodeGroup, lookupSym_some, decVal_encSym a h0, decVal_encSym a h1, secondSym_some,
    if_pos (valid_natCast h1), groupByte0_natCast v0 h1]

/-- Four symbols decode to three bytes. -/
theorem groupTail_symbols {v2 v3 : Nat} (a : Alphabet) (v1 : Nat) (h2 : v2 < 64) (h3 : v3 < 64) :
    groupTail v1 (some (decVal a (encSym a v2))) (some (decVal a (encSym a v3))) =
      [BitVec.ofNat 8 (v1 * 16 + v2 / 4), BitVec.ofNat 8 (v2 * 64 + v3)] := by
  rw [decVal_encSym a h2, decVal_encSym a h3, groupTail_some_some, if_pos (valid_natCast h2),
    if_pos (valid_natCast h3), groupByte1_natCast v1 h2, groupByte2_natCast v2 h3]

/-- Padding in the fourth position leaves two bytes (R94). -/
theorem groupTail_symbol_padding {v2 : Nat} (a : Alphabet) (v1 : Nat) (h2 : v2 < 64) :
    groupTail v1 (some (decVal a (encSym a v2))) (some (decVal a paddingByte)) =
      [BitVec.ofNat 8 (v1 * 16 + v2 / 4)] := by
  rw [decVal_encSym a h2, decVal_padding, groupTail_some_some, if_pos (valid_natCast h2), if_neg (by decide),
    groupByte1_natCast v1 h2]

/-- Padding in the third position leaves one byte (R93). -/
theorem groupTail_padding (a : Alphabet) (b1 e3 : Int) : groupTail b1 (some (decVal a paddingByte)) (some e3) = [] := by
  rw [decVal_padding, groupTail_some_some, if_neg (by decide)]

/-- A byte is eight bits put together in any way. -/
theorem ofNat_eq_of_mod {n : Nat} {x : Byte} (h : n % 256 = x.toNat) : BitVec.ofNat 8 n = x :=
  BitVec.eq_of_toNat_eq (by rw [BitVec.toNat_ofNat]; exact h)

/-- The symbols of a full group decode to its three bytes (R99). -/
theorem base64Decode_encodeGroup (a : Alphabet) (k : Int) (x y z : Byte) (l : List Byte) :
    base64Decode a k (encodeGroup a x y z ++ l) = x :: y :: z :: base64Decode a k l := by
  have hx := x.isLt
  have hy := y.isLt
  have hz := z.isLt
  rw [encodeGroup_eq]
  simp only [List.cons_append, List.nil_append]
  rw [base64Decode_symbols (by omega) (by omega), groupTail_symbols a _ (by omega) (by omega),
    ofNat_eq_of_mod (x := x) (by omega), ofNat_eq_of_mod (x := y) (by omega), ofNat_eq_of_mod (x := z) (by omega)]
  rfl

/-- The symbols of two trailing bytes decode to them, and the padding ends the group there (R96). -/
theorem base64Decode_encodeTail2 (a : Alphabet) (k : Int) (x y : Byte) (l : List Byte) :
    base64Decode a k (encodeTail2 a x y ++ l) = x :: y :: base64Decode a k l := by
  have hx := x.isLt
  have hy := y.isLt
  rw [encodeTail2_eq]
  simp only [List.cons_append, List.nil_append]
  rw [base64Decode_symbols (by omega) (by omega), groupTail_symbol_padding a _ (by omega),
    ofNat_eq_of_mod (x := x) (by omega), ofNat_eq_of_mod (x := y) (by omega)]
  rfl

/-- The symbols of one trailing byte decode to it (R96). -/
theorem base64Decode_encodeTail1 (a : Alphabet) (k : Int) (x : Byte) (l : List Byte) :
    base64Decode a k (encodeTail1 a x ++ l) = x :: base64Decode a k l := by
  have hx := x.isLt
  rw [encodeTail1_eq]
  simp only [List.cons_append, List.nil_append]
  rw [base64Decode_symbols (by omega) (by omega), groupTail_padding, ofNat_eq_of_mod (x := x) (by omega)]
  rfl

/-- Settles O19, by induction on the groups of the payload: each group's text decodes to the group and ends with it. -/
theorem paddingStopsOnlyItsGroup : Obligations.PaddingStopsOnlyItsGroup := by
  intro a k l tail
  fun_induction base64Encode a l with
  | case1 x y z rest ih => rw [List.append_assoc, base64Decode_encodeGroup, ih]; rfl
  | case2 x y => exact base64Decode_encodeTail2 a k x y tail
  | case3 x => exact base64Decode_encodeTail1 a k x tail
  | case4 => rfl

/-- Settles O18: nothing follows the text. -/
theorem decodeInvertsEncode : Obligations.DecodeInvertsEncode := by
  intro a k l
  calc base64Decode a k (base64Encode a l)
    _ = base64Decode a k (base64Encode a l ++ []) := by rw [List.append_nil]
    _ = l ++ base64Decode a k [] := paddingStopsOnlyItsGroup a k l []
    _ = l := List.append_nil l

/-! ### The whitespace pre-pass -/

/-- R100. -/
theorem isStripped_iff {b : Byte} : isStripped b = true ↔ b = 0x20 ∨ b = 0x0A ∨ b = 0x0D := by
  simp [isStripped, or_assoc]

/-- Settles O20: the pre-pass is a filter, which keeps a byte's every occurrence or none. -/
theorem stripRemovesThreeBytesOnly : Obligations.StripRemovesThreeBytesOnly := by
  intro l
  refine ⟨List.filter_sublist, fun b => ?_⟩
  split
  case isTrue h =>
    have hb : isStripped b = true := isStripped_iff.mpr h
    exact List.count_eq_zero.mpr fun hmem => by simp [stripWhitespace, hb] at hmem
  case isFalse h =>
    have hb : isStripped b = false := Bool.eq_false_iff.mpr (mt isStripped_iff.mp h)
    exact List.count_filter (by rw [hb]; rfl)

end Sys2Proof.Machine

/-! ## Proofs: the checks of a transaction (44_host_access.md R106 to R108) -/

namespace Sys2Proof.Machine

/-- R107, R41. -/
theorem sizeAligned_iff {r : Region} {a n : Nat} :
    sizeAligned r a n = true ↔ if r = .registers then n = 4 ∧ a % 4 = 0 else a % n = 0 := by
  cases r <;> simp [sizeAligned]

theorem busCheck_unmapped {s : State} (d : Dir) {a n : Nat} (hr : regionOf s.cfg a n = none) :
    busCheck s d a n = .busError .decerr := by
  simp [busCheck, hr]

theorem busCheck_misaligned {s : State} (d : Dir) {a n : Nat} {r : Region} (hr : regionOf s.cfg a n = some r)
    (ha : sizeAligned r a n = false) : busCheck s d a n = .busError .slverr := by
  simp [busCheck, hr, ha]

theorem busCheck_interlocked {s : State} {d : Dir} {a n : Nat} {r : Region} (hr : regionOf s.cfg a n = some r)
    (hi : interlocked s d r a = true) : busCheck s d a n = .busError .slverr := by
  simp [busCheck, hr, hi]

/-- The interlock alone decides a mapped and aligned transaction (R107). -/
theorem busCheck_eq_slverr_iff {s : State} {d : Dir} {a n : Nat} {r : Region} (hr : regionOf s.cfg a n = some r)
    (ha : sizeAligned r a n = true) : busCheck s d a n = .busError .slverr ↔ interlocked s d r a = true := by
  refine ⟨fun h => ?_, busCheck_interlocked hr⟩
  by_contra hi
  rw [busCheck_of_regionOf hr ha (Bool.eq_false_iff.mpr hi)] at h
  exact absurd h nofun

/-- The IN_LEN register at an aligned offset (10_state.md R18). -/
theorem registerAt_inLen {a : Nat} (h : a % 4 = 0) : registerAt a = .inLen ↔ a = 0x00008 := by
  constructor
  · intro hr
    unfold registerAt at hr
    split_ifs at hr
    omega
  · rintro rfl
    rfl

/-- The transactions that touch a running command, by offset (R108). -/
theorem touchesCommand_iff {d : Dir} {r : Region} {a n : Nat} (ha : sizeAligned r a n = true) :
    touchesCommand d r a = true ↔
      (d = .write ∧ r = .registers ∧ a = 0x00000) ∨ (d = .write ∧ r = .registers ∧ a = 0x00008) ∨
        (d = .write ∧ r = .inBuf) ∨ (d = .read ∧ r = .outBuf) := by
  cases r with
  | registers =>
    obtain ⟨-, h4⟩ : n = 4 ∧ a % 4 = 0 := sizeAligned_iff.mp ha
    cases d <;> simp [touchesCommand, registerAt_cmd h4, registerAt_inLen h4]
  | alphaStd | alphaUrl | decStd | decUrl | inBuf | outBuf => cases d <;> simp [touchesCommand]

/-- Settles O33, a check at a time. -/
theorem transactionCheckOrder : Obligations.TransactionCheckOrder := by
  intro s d a n
  refine ⟨busCheck_unmapped d, fun r hr => ⟨fun ha => ?_, fun ha hb => ?_⟩⟩
  · exact busCheck_misaligned d hr (Bool.eq_false_iff.mpr (mt sizeAligned_iff.mp ha))
  · exact busCheck_of_regionOf hr (sizeAligned_iff.mpr ha) (by simp [interlocked, hb])

/-- Settles O34: the interlock is the last check, and it is BUSY together with the four kinds. -/
theorem busyInterlockRefusesFourCases : Obligations.BusyInterlockRefusesFourCases := by
  intro s d a n r hr ha
  refine ⟨?_, fun hpass => ?_⟩
  · rw [busCheck_eq_slverr_iff hr ha, interlocked, Bool.and_eq_true, touchesCommand_iff ha]
  · exact busCheck_of_regionOf hr ha (Bool.eq_false_iff.mpr (mt (busCheck_interlocked hr) hpass))

/-- A bus error is the response alone (60_exceptions.md R114). -/
theorem raiseBusError_eq (d : Dir) (k : BusResponse) (s : State) :
    raiseBusError d k s = { s with resp := some ⟨k, if d = .read then some 0 else none⟩ } := by
  cases d <;> rfl

/-- Settles O35. -/
theorem refusedTransactionChangesNothing : Obligations.RefusedTransactionChangesNothing := by
  intro s t rest k hs hc
  rw [step_refused hs hc, raiseBusError_eq]
  rfl

end Sys2Proof.Machine

/-! ## Proofs: what a host read returns (44_host_access.md R109) -/

namespace Sys2Proof.Machine

/-! ### The registers -/

/-- The four bytes of an aligned word of the register region are of one register (10_state.md R18). -/
theorem registerAt_add {a k : Nat} (ha : a % 4 = 0) (hk : k < 4) : registerAt (a + k) = registerAt a := by
  have hlt : ∀ b, b % 4 = 0 → (a + k < b ↔ a < b) := by omega
  simp [registerAt, hlt]

/-- An aligned word of the register region is the register's value (20_memory.md R34, R42). -/
theorem memRead_registers (s : State) {a : Nat} (ha : a % 4 = 0) :
    memRead s .registers a 4 = regWord s (registerAt a) := by
  have hbytes : (List.range 4).map (fun k => byteAt s .registers (a + k)) = bytesOfWord 4 (regWord s (registerAt a)) := by
    refine List.map_congr_left fun k hk => ?_
    have hk : k < 4 := List.mem_range.mp hk
    have hmod : (a + k) % 4 = k := by omega
    rw [byteAt, registerAt_add ha hk, hmod]
  rw [memRead, hbytes, wordOfBytes_bytesOfWord, Nat.mod_eq_of_lt (BitVec.isLt _), BitVec.ofNat_toNat, BitVec.setWidth_eq]

/-- What a step does before its agent's action changes no register's value. -/
@[simp] theorem regWord_beginStep (rest : List Event) (s : State) (r : Register) :
    regWord (beginStep rest s) r = regWord s r := by
  cases r <;> rfl

/-- No read of a register is refused, BUSY or not (R108): it returns the register's value. -/
theorem step_register_read {s : State} {rest : List Event} {o : Offset}
    (hs : s.schedule = .transaction (.rd .four o) :: rest) (ho : o.toNat % 4 = 0) (hle : o.toNat + 4 ≤ 0x1C) :
    step s = .next { s with
      schedule := rest, draws := s.draws + 1, resp := some ⟨.okay, some (regWord s (registerAt o.toNat))⟩ } := by
  have hc : busCheck s .read o.toNat 4 = .pass .registers := busCheck_registers ho hle (Bool.and_false _)
  rw [step_read hs rfl hc, ← regWord_beginStep rest, ← memRead_registers _ ho]
  rfl

/-- Two flags at bits 0 and 1 (R109). -/
theorem flagAt_or_flagAt (b c : Bool) : flagAt b 0 ||| flagAt c 1 = BitVec.ofNat 32 (b.toNat + 2 * c.toNat) := by
  cases b <;> cases c <;> rfl

/-- STATUS as a sum of its fields (10_state.md R20). -/
theorem statusWord_eq (s : State) :
    statusWord s = BitVec.ofNat 32 (s.busy.toNat + 2 * s.done.toNat + 4 * s.err.toNat + 256 * s.cause.toNat) := by
  have hfields : ∀ (b d e : Bool) (c : BitVec 4),
      flagAt b 0 ||| flagAt d 1 ||| flagAt e 2 ||| (c.setWidth 32 <<< 8) =
        BitVec.ofNat 32 (b.toNat + 2 * d.toNat + 4 * e.toNat + 256 * c.toNat) := by decide
  exact hfields s.busy s.done s.err s.cause

/-- A legal IN_CAP fits the 17 bits of CAP (10_state.md R25). -/
theorem capWord_eq {s : State} (hp : s.cfg.legal = true) : regWord s .cap = BitVec.ofNat 32 s.cfg.inCap := by
  obtain ⟨-, hcap⟩ := legal_bounds hp
  exact BitVec.setWidth_ofNat_of_le_of_lt (by decide) (by omega)

/-- Settles O37, a register at a time. -/
theorem registerReadValues : Obligations.RegisterReadValues := by
  intro s rest off v hp hmem hs
  obtain ⟨ho, hle, rfl⟩ :
      off.toNat % 4 = 0 ∧ off.toNat + 4 ≤ 0x1C ∧ regWord s (registerAt off.toNat) = v := by
    simp only [List.mem_cons, List.not_mem_nil, or_false, Prod.mk.injEq] at hmem
    obtain ⟨rfl, rfl⟩ | ⟨rfl, rfl⟩ | ⟨rfl, rfl⟩ | ⟨rfl, rfl⟩ | ⟨rfl, rfl⟩ | ⟨rfl, rfl⟩ | ⟨rfl, rfl⟩ := hmem
    · exact ⟨rfl, by decide, rfl⟩
    · exact ⟨rfl, by decide, statusWord_eq s⟩
    · exact ⟨rfl, by decide, (BitVec.ofNat_toNat 32 s.inLen).symm⟩
    · exact ⟨rfl, by decide, (BitVec.ofNat_toNat 32 s.outCount).symm⟩
    · exact ⟨rfl, by decide, flagAt_or_flagAt s.doneIE s.errIE⟩
    · exact ⟨rfl, by decide, flagAt_or_flagAt s.doneIP s.errIP⟩
    · exact ⟨rfl, by decide, capWord_eq hp⟩
  exact step_register_read hs ho hle

/-! ### Every region -/

theorem size_bytes_pos (z : Size) : 0 < z.bytes := by cases z <;> decide

theorem size_bytes_dvd_four (z : Size) : z.bytes ∣ 4 := by cases z <;> decide

/-- Settles O58: byte k of the data is the region's byte (R42), which is a written byte or a ROM entry. -/
theorem hostReadAnswersRegionBytes : Obligations.HostReadAnswersRegionBytes := by
  intro s rest t r hd hs hc
  have hsize : t.size.bytes ≤ 4 := Nat.le_of_dvd (by decide) (size_bytes_dvd_four t.size)
  obtain ⟨hbyte, hlt⟩ := readDataLittleEndian (beginStep rest s) r t.off.toNat t.size.bytes hsize
  refine ⟨_, step_read hs hd hc, rfl, hlt, fun k hk => ?_⟩
  rw [hbyte k hk]
  refine ⟨?_, ?_, ?_, ?_, ?_⟩
  · rintro (rfl | rfl) b hb
    all_goals exact bufferByte_of_read hb
  all_goals
    rintro rfl
    rfl

end Sys2Proof.Machine

/-! ## Proofs: writes that change nothing (44_host_access.md R110) -/

namespace Sys2Proof.Machine

section
variable {r : Region} (hreg : r ≠ .registers) (hin : r ≠ .inBuf)
include hreg hin

/-- A ROM window and OUT_BUF ignore a write (R110). -/
theorem writeRegion_readOnly (a n : Nat) (v : Word) (s : State) : writeRegion r a n v s = .next s := by
  cases r with
  | registers => exact absurd rfl hreg
  | inBuf => exact absurd rfl hin
  | alphaStd | alphaUrl | decStd | decUrl | outBuf => rfl

/-- A write to a ROM window or to OUT_BUF touches no command (R108). -/
theorem touchesCommand_write_readOnly (a : Nat) : touchesCommand .write r a = false := by
  cases r with
  | registers => exact absurd rfl hreg
  | inBuf => exact absurd rfl hin
  | alphaStd | alphaUrl | decStd | decUrl | outBuf => rfl

end

/-- An aligned write inside a row of the map other than the registers and IN_BUF is answered OKAY and ignored, BUSY or
not (R110). -/
theorem step_write_readOnly {s : State} {rest : List Event} {t : Transaction} {w : Window}
    (hs : s.schedule = .transaction t :: rest) (hp : s.cfg.legal = true) (hd : t.dir = .write)
    (ha : t.off.toNat % t.size.bytes = 0) (hw : w ∈ addressMap s.cfg) (hreg : w.region ≠ .registers)
    (hin : w.region ≠ .inBuf) (hb : w.base ≤ t.off.toNat ∧ t.off.toNat + t.size.bytes ≤ w.base + w.size) :
    step s = .next (answerWrite (beginStep rest s)) := by
  have hc : busCheck s .write t.off.toNat t.size.bytes = .pass w.region := by
    refine busCheck_of_regionOf ?_ ?_ ?_
    · exact (regionOf_iff hp (size_bytes_pos t.size) hw).mpr hb
    · exact sizeAligned_iff.mpr (by rwa [if_neg hreg])
    · rw [interlocked, touchesCommand_write_readOnly hreg hin, Bool.and_false]
  rw [step_write hs hd hc, writeRegion_readOnly hreg hin]

/-- The four ROM windows fill 0x100 to 0x400, and an aligned transaction crosses no border between two (20_memory.md
R33, R41). -/
theorem exists_romWindow (p : Config.Params) {z : Size} {a : Nat} (ha : a % z.bytes = 0) (h1 : 0x100 ≤ a)
    (h2 : a + z.bytes ≤ 0x400) :
    ∃ w ∈ addressMap p, w.region ≠ .registers ∧ w.region ≠ .inBuf ∧ w.base ≤ a ∧ a + z.bytes ≤ w.base + w.size := by
  have hend : ∀ b, 4 ∣ b → a < b → a + z.bytes ≤ b := fun b hb hlt =>
    Nat.le_of_lt_add_of_dvd (by omega) ((Nat.dvd_of_mod_eq_zero ha).add dvd_rfl) ((size_bytes_dvd_four z).trans hb)
  obtain h | ⟨h, h'⟩ | ⟨h, h'⟩ | h :
      a < 0x180 ∨ (0x180 ≤ a ∧ a < 0x200) ∨ (0x200 ≤ a ∧ a < 0x300) ∨ 0x300 ≤ a := by omega
  · exact ⟨⟨.alphaStd, 0x100, 0x80⟩, by simp [addressMap], nofun, nofun, h1, hend 0x180 (by decide) h⟩
  · exact ⟨⟨.alphaUrl, 0x180, 0x80⟩, by simp [addressMap], nofun, nofun, h, hend 0x200 (by decide) h'⟩
  · exact ⟨⟨.decStd, 0x200, 0x100⟩, by simp [addressMap], nofun, nofun, h, hend 0x300 (by decide) h'⟩
  · exact ⟨⟨.decUrl, 0x300, 0x100⟩, by simp [addressMap], nofun, nofun, h, h2⟩

/-- Settles O41: a read-only register, a ROM window, OUT_BUF. -/
theorem readOnlyLocationsIgnoreWrites : Obligations.ReadOnlyLocationsIgnoreWrites := by
  intro s rest t hp hd ha hloc hs
  obtain ⟨hz, ho⟩ | ⟨h1, h2⟩ | hb := hloc
  · obtain ⟨d, z, o, v⟩ := t
    obtain rfl : d = .write := hd
    obtain rfl : z = .four := hz
    obtain rfl | rfl | rfl : o = 0x00004 ∨ o = 0x0000C ∨ o = 0x00018 := ho
    all_goals exact step_register_write hs rfl (by decide) (Bool.and_false _)
  · obtain ⟨w, hw, hreg, hin, hb⟩ := exists_romWindow s.cfg ha h1 h2
    exact step_write_readOnly hs hp hd ha hw hreg hin hb
  · exact step_write_readOnly (w := ⟨.outBuf, outBufBase, s.cfg.outCap⟩) hs hp hd ha (by simp [addressMap]) nofun nofun hb

end Sys2Proof.Machine

/-! ## Proofs: a running command stays fixed (44_host_access.md R108, 10_state.md R22, R29) -/

namespace Sys2Proof.Machine

/-- From s to u the command's word, its length, its latches, the buffers and the outcome of the command before are
unchanged. -/
def CommandKept (s u : State) : Prop :=
  u.cmd = s.cmd ∧ u.inLen = s.inLen ∧ u.latchOp = s.latchOp ∧ u.latchLen = s.latchLen ∧ u.mem = s.mem ∧
  u.outCount = s.outCount ∧ u.done = s.done ∧ u.err = s.err ∧ u.cause = s.cause

theorem CommandKept.refl (s : State) : CommandKept s s := ⟨rfl, rfl, rfl, rfl, rfl, rfl, rfl, rfl, rfl⟩

/-- A transaction on a BUSY engine keeps the command: those that would not are refused (R108). -/
theorem TransactOutcome.commandKept {t : Transaction} {s u : State} (h : TransactOutcome t s u) (hb : s.busy = true) :
    CommandKept s u := by
  have hbusy : s.busy ≠ false := by simp [hb]
  cases h with
  | refused k => rw [raiseBusError_eq]; exact .refl s
  | illegal _ _ hidle => exact absurd hidle hbusy
  | issued _ _ hidle => exact absurd hidle hbusy
  | wroteInLen _ _ hidle => exact absurd hidle hbusy
  | wroteInBuf _ hidle => exact absurd hidle hbusy
  | answered | wroteIrqEn | wroteIrqPend | ignored => exact .refl s

/-- Settles O51: a step from BUSY to BUSY is a transaction, since the engine and the reset input clear BUSY. -/
theorem busyKeepsCommandFixed : Obligations.BusyKeepsCommandFixed := by
  intro s u hstep hb hu
  have hbusy : s.busy ≠ false := by simp [hb]
  obtain ⟨_, rest, -, ho⟩ | ⟨rest, -, he⟩ | ⟨rest, -, rfl⟩ | ⟨-, hidle, -⟩ := step_cases hstep
  · exact ho.commandKept hb
  · obtain ⟨hidle, -⟩ | ⟨-, _, -, rfl⟩ := engineStep_next he
    · exact absurd hidle hbusy
    · exact absurd hu nofun
  · exact absurd hu nofun
  · exact absurd hidle hbusy

end Sys2Proof.Machine

/-! ## Proofs: the IRQ line and the pending bits (60_exceptions.md R117, R118) -/

namespace Sys2Proof.Machine

/-! ### The IRQ line -/

/-- The IRQ line is the level of the enabled pending bits (R118). -/
theorem irqLine_iff (s : State) :
    irqLine s = true ↔ (s.doneIP = true ∧ s.doneIE = true) ∨ (s.errIP = true ∧ s.errIE = true) := by
  rw [irqLine, Bool.or_eq_true, Bool.and_eq_true, Bool.and_eq_true]

/-- Settles O43: reset leaves no bit pending, so none of them drives the line. -/
theorem irqLineIsEnabledPending : Obligations.IrqLineIsEnabledPending :=
  ⟨irqLine_iff, fun _ => rfl⟩

/-! ### The pending bits -/

/-- From s to u no pending bit is cleared. -/
def PendingKept (s u : State) : Prop :=
  (s.doneIP = true → u.doneIP = true) ∧ (s.errIP = true → u.errIP = true)

theorem PendingKept.refl (s : State) : PendingKept s s := ⟨id, id⟩

/-- A command error raises ERR_IP and leaves DONE_IP (41_command.md R73). -/
theorem pendingKept_raiseCommandError (c : CommandError) (s : State) : PendingKept s (raiseCommandError c s) :=
  ⟨id, fun _ => rfl⟩

/-- A completion raises DONE_IP and leaves ERR_IP (41_command.md R74). -/
theorem pendingKept_completeCommand (r : List Byte) (s : State) : PendingKept s (completeCommand r s) :=
  ⟨fun _ => rfl, id⟩

/-- The start of a command clears no pending bit, whether its length fits or not (41_command.md R72). -/
theorem pendingKept_startCommand (op : BitVec 3) (s : State) : PendingKept s (startCommand op s) := by
  obtain ⟨-, hs⟩ | ⟨-, hs⟩ := startCommand_cases op s
  · rw [hs]; exact .refl s
  · rw [hs]; exact pendingKept_raiseCommandError .lenRange s

/-- A transaction clears no pending bit, unless it writes IRQ_PEND (R117, R120). -/
theorem TransactOutcome.pending_cases {t : Transaction} {s u : State} (h : TransactOutcome t s u) :
    PendingKept s u ∨ ∃ v, t = .wr .four 0x00014 v ∧ u = acknowledge v (answerWrite s) := by
  cases h with
  | wroteIrqPend v ht => exact .inr ⟨v, ht, rfl⟩
  | refused k => rw [raiseBusError_eq]; exact .inl (.refl s)
  | illegal w => exact .inl (pendingKept_raiseCommandError .illegalCmd (acceptCommand w (answerWrite s)))
  | issued w _ _ i => exact .inl (pendingKept_startCommand (opcode i) (acceptCommand w (answerWrite s)))
  | answered | wroteInLen | wroteIrqEn | wroteInBuf | ignored => exact .inl (.refl s)

/-- A step clears no pending bit, unless it is a write to IRQ_PEND, which acknowledges, or the reset input (R117). -/
theorem step_pending_cases {s u : State} (h : step s = .next u) :
    PendingKept s u ∨
    (∃ v, s.schedule.head? = some (.transaction (.wr .four 0x00014 v)) ∧
      u.doneIP = (s.doneIP && !v.getLsbD 0) ∧ u.errIP = (s.errIP && !v.getLsbD 1)) ∨
    s.schedule.head? = some .resetInput := by
  obtain ⟨_, rest, hs, ho⟩ | ⟨rest, -, he⟩ | ⟨rest, hs, -⟩ | ⟨-, -, rfl⟩ := step_cases h
  · obtain hkept | ⟨v, rfl, rfl⟩ := ho.pending_cases
    · exact .inl hkept
    · exact .inr (.inl ⟨v, by rw [hs]; rfl, rfl, rfl⟩)
  · obtain ⟨-, rfl⟩ | ⟨-, _, -, rfl⟩ := engineStep_next he
    · exact .inl (.refl s)
    · exact .inl (pendingKept_completeCommand _ (beginStep rest s))
  · exact .inr (.inr (by rw [hs]; rfl))
  · exact .inl (.refl u)

/-- Settles O46: a write to IRQ_PEND clears exactly the bits it holds as 1. -/
theorem pendingBitsClearedOnlyByHostOrReset : Obligations.PendingBitsClearedOnlyByHostOrReset := by
  intro s u hstep
  obtain ⟨hdone, herr⟩ | ⟨v, hs, hdone, herr⟩ | hs := step_pending_cases hstep
  · exact ⟨fun h h' => by simp [hdone h] at h', fun h h' => by simp [herr h] at h'⟩
  · exact ⟨fun h h' => .inl ⟨v, hs, by simpa [h, hdone] using h'⟩,
      fun h h' => .inl ⟨v, hs, by simpa [h, herr] using h'⟩⟩
  · exact ⟨fun _ _ => .inr hs, fun _ _ => .inr hs⟩

end Sys2Proof.Machine

/-! ## Proofs: no step stops the machine (60_exceptions.md R113, 41_command.md R75) -/

namespace Sys2Proof.Machine

/-- An idle engine has no step of its own (R74). -/
theorem engineStep_idle {s : State} (hb : s.busy = false) : engineStep s = .next s := by
  rw [engineStep, hb]; rfl

/-- With no event left and the engine idle nothing changes (70_reset_and_hazards.md R137, log 3). -/
theorem step_of_final {s : State} (h : s.final) : step s = .next s := by
  obtain ⟨hs, hb⟩ := h
  simp [step, nextStep, hs, hb]

/-- The engine's turn does not stop the machine: a BUSY engine has latched a command (R75). -/
theorem engineStep_answers_of_inv {s : State} (h : s.Inv) : ∃ u, engineStep s = .next u := by
  cases hb : s.busy with
  | false => exact ⟨s, engineStep_idle hb⟩
  | true =>
    obtain ⟨i, hi⟩ := h.exists_latched hb
    exact ⟨_, (engineStep_of_latchOp hb hi).trans (exec_busy i hb)⟩

/-- Settles O55: only the engine's step can fault, and the invariant excludes it. -/
theorem stepNeverStops : Obligations.StepNeverStops := by
  intro s hinv
  cases hs : s.schedule with
  | nil =>
    cases hb : s.busy with
    | false => exact ⟨s, step_of_final ⟨hs, hb⟩⟩
    | true =>
      obtain ⟨u, hu, -⟩ := hinv.step_completes hb (.inr ⟨hs, rfl⟩)
      exact ⟨u, hu⟩
  | cons e rest =>
    rw [State.continues, step_of_cons hs]
    cases e with
    | transaction t =>
      obtain ⟨u, hu, -⟩ := transact_cases t (beginStep rest s)
      exact ⟨u, hu⟩
    | engineTurn => exact engineStep_answers_of_inv (hinv.beginStep rest)
    | resetInput => exact ⟨_, rfl⟩

end Sys2Proof.Machine

/-! ## Proofs: a whole command, the reset input and the end of a run (70_reset_and_hazards.md R128 to R137) -/

namespace Sys2Proof.Machine

/-! ### A whole command -/

/-- What the CMD write of i leaves on an idle engine when the length fits IN_BUF: the command accepted and started
(41_command.md R71, R72), the events `rest` still to come. -/
def startedBy (i : Instr) (rest : List Event) (s : State) : State :=
  { s with
    schedule := rest, draws := s.draws + 1, resp := some ⟨.okay, none⟩,
    cmd := encode i, done := false, err := false, cause := 0,
    latchOp := opcode i, latchLen := s.inLen, busy := true }

/-- The CMD write of a command whose length fits IN_BUF starts it (R71, R72). -/
theorem step_cmd_write_starts {i : Instr} {s : State} {rest : List Event} (hb : s.busy = false)
    (hs : s.schedule = .transaction (.wr .four 0x00000 (encode i)) :: rest) (hlen : s.inLen.toNat ≤ s.cfg.inCap) :
    step s = .next (startedBy i rest s) :=
  (cmdWriteRunsDecodedCommand s rest (encode i) i hb (decodeWord_encode i) hs).trans
    (commandsStartWhenIdle i _ hb hlen)

/-- The engine's turn completes the latched command, on the operand IN_BUF holds (R74, R75). -/
theorem step_engineTurn_completes {i : Instr} {s : State} {rest : List Event} {l : List Byte} (hb : s.busy = true)
    (hop : s.latchOp = opcode i) (hs : s.schedule = .engineTurn :: rest) (hl : s.latchLen.toNat = l.length)
    (hm : ∀ k (h : k < l.length), s.mem.read (inBufBase + k) = some l[k]) :
    step s = .next (completeCommand (commandResult i s.cfg.substB1 l) (beginStep rest s)) := by
  have hoperand : operand (beginStep rest s) = l := operand_eq hl hm
  calc step s = exec i (beginStep rest s) := engineStepRunsLatchedCommand s rest i hb hop (.inl hs)
    _ = _ := exec_busy i hb
    _ = _ := by rw [hoperand, beginStep_cfg]

/-- Settles O31: the CMD write starts the command and the engine's turn completes it; COUNT is exact because no result
overflows OUT_BUF. -/
theorem commandRunDeliversResult : Obligations.CommandRunDeliversResult := by
  intro i s rest l hinv hb hs hl hcap hm
  have hstart := step_cmd_write_starts hb hs (hl.trans_le hcap)
  have hcomplete := step_engineTurn_completes (s := startedBy i (.engineTurn :: rest) s) rfl rfl rfl hl hm
  refine ⟨_, (run_succ 1 hstart).trans (run_succ 0 hcomplete), ?_,
    fun _ hk => completeCommand_read_result _ _ hk, fun _ ha => completeCommand_read_outside _ ha,
    rfl, rfl, rfl, rfl, rfl, rfl, rfl, rfl, rfl⟩
  exact toNat_count_of_le hinv.cfgLegal (length_commandResult_le hcap i s.cfg.substB1)

/-! ### The reset input -/

/-- The reset input is taken at any time, BUSY or not (R128). -/
theorem step_reset {s : State} {rest : List Event} (hs : s.schedule = .resetInput :: rest) :
    step s = .next (resetStep (beginStep rest s)) :=
  step_of_cons hs

/-- Settles O44: the state after reset, with the schedule and the draw counter moved on by the step. -/
theorem resetLeavesSpecValues : Obligations.ResetLeavesSpecValues :=
  fun _ _ hs => step_reset hs

/-- The turn of an idle engine only passes (log 1). -/
theorem step_engineTurn_idle {s : State} {rest : List Event} (hb : s.busy = false)
    (hs : s.schedule = .engineTurn :: rest) : step s = .next (beginStep rest s) :=
  (step_of_cons hs).trans (engineStep_idle (s := beginStep rest s) hb)

/-- Settles O45: after the reset the engine is idle, so its turn has nothing to complete. -/
theorem resetAbortsCommand : Obligations.ResetAbortsCommand := by
  intro s rest _ hs
  have hturn := step_engineTurn_idle (s := resetStep (beginStep (.engineTurn :: rest) s)) rfl rfl
  exact ⟨_, (run_succ 1 (step_reset hs)).trans (run_succ 0 hturn), rfl, rfl, rfl, rfl, rfl, rfl⟩

/-! ### The end of a run -/

/-- No number of steps leaves a final state (R137, log 3). -/
theorem run_of_final {s : State} (h : s.final) (k : Nat) : run k s = .next s := by
  induction k with
  | zero => exact run_zero s
  | succ k ih => exact (run_succ k (step_of_final h)).trans ih

/-- Settles O57: a final state's engine is idle. -/
theorem finalStateStays : Obligations.FinalStateStays :=
  fun _ => ⟨run_of_final, fun hbusy ⟨_, hidle⟩ => absurd hbusy (by simp [hidle])⟩

end Sys2Proof.Machine
